-- ==== Sys2Proof/Word.lean ====
section
/-!
DEFINITION. The words the block handles (00_scope R10).
-/

namespace Sys2Proof

/-- A command word, and the 64-bit value of a host register read (30_encoding R80, R82). -/
abbrev Word := BitVec 64

/-- A byte of the frame buffer or of the reassembly buffer. -/
abbrev Byte := BitVec 8

end Sys2Proof
end

