-- ==== Sys2Proof/Syntax.lean ====
section
/-!
DEFINITION. The commands of the block: one constructor per row of spec/opcode_table.json.

Offsets, lengths, counts and widths are numbers, because the spec computes with them on unbounded integers
(00_scope R10, 30_encoding R93); data bytes and CRC bits are bits. The ranges of the numbers are checked in
WellFormed.
-/

namespace Sys2Proof

/-- The S bit: `extract_uint` or `extract_int` (30_encoding R90, R92). -/
inductive Signedness where
  | unsigned
  | signed
deriving DecidableEq, Repr

/-- The SRC bit: the frame buffer or the reassembly buffer (30_encoding R90). -/
inductive Source where
  | fb
  | rb
deriving DecidableEq, Repr

/-- The NC code: a container of 1, 2, 4 or 8 bytes (30_encoding R90). -/
inductive Container where
  | b1
  | b2
  | b4
  | b8
deriving DecidableEq, Repr

/-- One command. Operand names are those of 30_encoding R84 to R92. -/
inductive Instr where
  | nop
  | fbw1 (addr : Nat) (data : BitVec 8)
  | fbw2 (addr : Nat) (data : BitVec 16)
  | fbw3 (addr : Nat) (data : BitVec 24)
  | setlen (len : Nat)
  | clrstat
  /-- `off` is a stream bit offset, `w` the width. -/
  | extBe (sg : Signedness) (src : Source) (off w : Nat)
  /-- `addr` is the container's byte address, `p` the field's position counted from the container's top bit. -/
  | extLe (sg : Signedness) (src : Source) (nc : Container) (addr w p : Nat)
  | crcInit
  | crcFeed1 (data : BitVec 1)
  | crcFeed2 (data : BitVec 2)
  | crcFeed3 (data : BitVec 3)
  | crcFeed4 (data : BitVec 4)
  | crcFeed5 (data : BitVec 5)
  | crcFeed6 (data : BitVec 6)
  | crcFeed7 (data : BitVec 7)
  | crcFeed8 (data : BitVec 8)
  | crcRun (pad off count : Nat)
  | crcCheck (off : Nat)
  | crcSbas
  | flInit
  | flByte (data : BitVec 8)
  | flRun (off count : Nat)
  | flCheck (off : Nat)
  | flUbx
  | raClr
  | raAppBe (src : Source) (off w : Nat)
  | raAppLe (src : Source) (nc : Container) (addr w p : Nat)
  | raAppr (w : Nat)
  | raGet (sg : Signedness)
deriving DecidableEq, Repr

/-- The row of spec/opcode_table.json a command belongs to. -/
def Instr.mnemonic : Instr → String
  | .nop => "NOP"
  | .fbw1 _ _ => "FBW.1"
  | .fbw2 _ _ => "FBW.2"
  | .fbw3 _ _ => "FBW.3"
  | .setlen _ => "SETLEN"
  | .clrstat => "CLRSTAT"
  | .extBe _ _ _ _ => "EXT.BE"
  | .extLe _ _ _ _ _ _ => "EXT.LE"
  | .crcInit => "CRC_INIT"
  | .crcFeed1 _ => "CRC_FEED.1"
  | .crcFeed2 _ => "CRC_FEED.2"
  | .crcFeed3 _ => "CRC_FEED.3"
  | .crcFeed4 _ => "CRC_FEED.4"
  | .crcFeed5 _ => "CRC_FEED.5"
  | .crcFeed6 _ => "CRC_FEED.6"
  | .crcFeed7 _ => "CRC_FEED.7"
  | .crcFeed8 _ => "CRC_FEED.8"
  | .crcRun _ _ _ => "CRC_RUN"
  | .crcCheck _ => "CRC_CHECK"
  | .crcSbas => "CRC_SBAS"
  | .flInit => "FL_INIT"
  | .flByte _ => "FL_BYTE"
  | .flRun _ _ => "FL_RUN"
  | .flCheck _ => "FL_CHECK"
  | .flUbx => "FL_UBX"
  | .raClr => "RA_CLR"
  | .raAppBe _ _ _ => "RA_APP.BE"
  | .raAppLe _ _ _ _ _ => "RA_APP.LE"
  | .raAppr _ => "RA_APPR"
  | .raGet _ => "RA_GET"

end Sys2Proof
end

