-- ==== Sys2Proof/WellFormed.lean ====
section
/-!
DEFINITION. Which commands the encoding can express: every number fits its field (30_encoding R82 to R91).
A value that fits its field and is still wrong (W = 0, W above 64, a field past its container or its buffer)
is a well-formed command, which raises the error of its own rule (R96).
-/

namespace Sys2Proof

/-- Fields A and B hold unsigned 24-bit numbers (30_encoding R93). -/
abbrev fits24 (n : Nat) : Prop := n < 2 ^ 24

/-- W is 7 bits wide (30_encoding R90, R91). -/
abbrev fitsW (n : Nat) : Prop := n < 2 ^ 7

/-- P is 6 bits wide (30_encoding R90). -/
abbrev fitsP (n : Nat) : Prop := n < 2 ^ 6

/-- PAD is 3 bits wide (30_encoding R87). -/
abbrev fitsPad (n : Nat) : Prop := n < 2 ^ 3

/-- Every number operand of the command fits its field. -/
def Instr.wf : Instr → Bool
  | .nop => true
  | .fbw1 addr _ => decide (fits24 addr)
  | .fbw2 addr _ => decide (fits24 addr)
  | .fbw3 addr _ => decide (fits24 addr)
  | .setlen len => decide (fits24 len)
  | .clrstat => true
  | .extBe _ _ off w => decide (fits24 off ∧ fitsW w)
  | .extLe _ _ _ addr w p => decide (fits24 addr ∧ fitsW w ∧ fitsP p)
  | .crcInit => true
  | .crcFeed1 _ => true
  | .crcFeed2 _ => true
  | .crcFeed3 _ => true
  | .crcFeed4 _ => true
  | .crcFeed5 _ => true
  | .crcFeed6 _ => true
  | .crcFeed7 _ => true
  | .crcFeed8 _ => true
  | .crcRun pad off count => decide (fitsPad pad ∧ fits24 off ∧ fits24 count)
  | .crcCheck off => decide (fits24 off)
  | .crcSbas => true
  | .flInit => true
  | .flByte _ => true
  | .flRun off count => decide (fits24 off ∧ fits24 count)
  | .flCheck off => decide (fits24 off)
  | .flUbx => true
  | .raClr => true
  | .raAppBe _ off w => decide (fits24 off ∧ fitsW w)
  | .raAppLe _ _ addr w p => decide (fits24 addr ∧ fitsW w ∧ fitsP p)
  | .raAppr w => decide (fitsW w)
  | .raGet _ => true

end Sys2Proof
end

