-- ==== Sys2Proof/Decode.lean ====
section
/-!
DEFINITION. Decoding of a 64-bit command word (30_encoding R82 to R95), the encoder beside it, and the mask
and match rows of spec/opcode_table.json.

The decoder is written from the format rules R83 to R92 and the opcode map R94; the table of rows is a second
account of the same encoding, and rule R95 says the two agree.
-/

namespace Sys2Proof

/-- `v[hi:lo]`, the field of bits hi down to lo as an unsigned number (00_scope R10). -/
def bitField (hi lo v : Nat) : Nat := v / 2 ^ lo % 2 ^ (hi + 1 - lo)

/-- OP, bits [63:56] (30_encoding R82). -/
def opField (w : Word) : Nat := bitField 63 56 w.toNat

/-- F, bits [55:48] (30_encoding R82). -/
def fField (w : Word) : Nat := bitField 55 48 w.toNat

/-- A, bits [47:24] (30_encoding R82). -/
def aField (w : Word) : Nat := bitField 47 24 w.toNat

/-- B, bits [23:0] (30_encoding R82). -/
def bField (w : Word) : Nat := bitField 23 0 w.toNat

/-- Why a word is no command (30_encoding R95). The block reports them all alike, as ILLEGAL_COMMAND. -/
inductive Illegal where
  /-- OP is none of rule R94. -/
  | reservedOpcode
  /-- A reserved bit of the word's format is set. -/
  | reservedBits
  /-- FBW with N = 0. -/
  | noDataByte
  /-- CRC_FEED with K = 0 or K above 8. -/
  | badBitCount
  /-- CRC_FEED with a data bit above B[K-1], or FBW with one above B[8N-1]. -/
  | dataAboveCount
  /-- EXT or RA_APP with E = 0 and NC or P not 0. -/
  | containerInBigEndian
  /-- RA_APP with S = 1. -/
  | signedChunk
deriving DecidableEq, Repr

/-- Format Z (R83), and every format whose F, A and B are 0. -/
def decodeZ (w : Word) (i : Instr) : Except Illegal Instr :=
  if fField w = 0 ∧ aField w = 0 ∧ bField w = 0 then .ok i else .error .reservedBits

/-- Format WR (R84). -/
def decodeWr (w : Word) : Except Illegal Instr :=
  let n := bitField 1 0 (fField w)
  if bitField 7 2 (fField w) ≠ 0 then .error .reservedBits
  else if n = 0 then .error .noDataByte
  else if n = 1 then
    if bitField 23 8 (bField w) ≠ 0 then .error .dataAboveCount
    else .ok (.fbw1 (aField w) (BitVec.ofNat 8 (bField w)))
  else if n = 2 then
    if bitField 23 16 (bField w) ≠ 0 then .error .dataAboveCount
    else .ok (.fbw2 (aField w) (BitVec.ofNat 16 (bField w)))
  else .ok (.fbw3 (aField w) (BitVec.ofNat 24 (bField w)))

/-- Formats LEN (R85) and CHK (R88): F = 0, B = 0, and A is the operand. -/
def decodeA (w : Word) (mk : Nat → Instr) : Except Illegal Instr :=
  if fField w = 0 ∧ bField w = 0 then .ok (mk (aField w)) else .error .reservedBits

/-- The K data bits of format FEED, with every bit of B above B[K-1] reserved (R86). -/
def decodeFeedBits (k : Nat) (w : Word) (mk : BitVec k → Instr) : Except Illegal Instr :=
  if bField w < 2 ^ k then .ok (mk (BitVec.ofNat k (bField w))) else .error .dataAboveCount

/-- Format FEED (R86). -/
def decodeFeed (w : Word) : Except Illegal Instr :=
  let k := bitField 3 0 (fField w)
  if bitField 7 4 (fField w) ≠ 0 ∨ aField w ≠ 0 then .error .reservedBits
  else if k = 1 then decodeFeedBits 1 w .crcFeed1
  else if k = 2 then decodeFeedBits 2 w .crcFeed2
  else if k = 3 then decodeFeedBits 3 w .crcFeed3
  else if k = 4 then decodeFeedBits 4 w .crcFeed4
  else if k = 5 then decodeFeedBits 5 w .crcFeed5
  else if k = 6 then decodeFeedBits 6 w .crcFeed6
  else if k = 7 then decodeFeedBits 7 w .crcFeed7
  else if k = 8 then decodeFeedBits 8 w .crcFeed8
  else .error .badBitCount

/-- Format CRUN (R87). -/
def decodeCrun (w : Word) : Except Illegal Instr :=
  if bitField 7 3 (fField w) ≠ 0 then .error .reservedBits
  else .ok (.crcRun (bitField 2 0 (fField w)) (aField w) (bField w))

/-- Format BYTE (R89). -/
def decodeByte (w : Word) : Except Illegal Instr :=
  if fField w ≠ 0 ∨ aField w ≠ 0 ∨ bitField 23 8 (bField w) ≠ 0 then .error .reservedBits
  else .ok (.flByte (BitVec.ofNat 8 (bField w)))

/-- Format FRUN (R89). -/
def decodeFrun (w : Word) : Except Illegal Instr :=
  if fField w ≠ 0 then .error .reservedBits else .ok (.flRun (aField w) (bField w))

/-- The S bit, from the number it is encoded as (R90). -/
def Signedness.ofCode (n : Nat) : Signedness := if n = 0 then .unsigned else .signed

/-- The SRC bit, from the number it is encoded as (R90). -/
def Source.ofCode (n : Nat) : Source := if n = 0 then .fb else .rb

/-- The NC code (R90). -/
def Container.ofCode (n : Nat) : Container :=
  if n = 0 then .b1 else if n = 1 then .b2 else if n = 2 then .b4 else .b8

/-- Format X (R90). `mkBe` and `mkLe` build the two forms; `mayBeSigned` says whether S = 1 is a form. -/
def decodeX (w : Word) (mayBeSigned : Bool)
    (mkBe : Signedness → Source → Nat → Nat → Instr)
    (mkLe : Signedness → Source → Container → Nat → Nat → Nat → Instr) : Except Illegal Instr :=
  let f := fField w
  let b := bField w
  let s := bitField 0 0 f
  let e := bitField 1 1 f
  let nc := bitField 3 2 f
  let src := Source.ofCode (bitField 4 4 f)
  let width := bitField 6 0 b
  let p := bitField 13 8 b
  if bitField 7 5 f ≠ 0 ∨ bitField 7 7 b ≠ 0 ∨ bitField 23 14 b ≠ 0 then .error .reservedBits
  else if s ≠ 0 ∧ mayBeSigned = false then .error .signedChunk
  else if e = 0 then
    if nc ≠ 0 ∨ p ≠ 0 then .error .containerInBigEndian
    else .ok (mkBe (Signedness.ofCode s) src (aField w) width)
  else .ok (mkLe (Signedness.ofCode s) src (Container.ofCode nc) (aField w) width p)

/-- Format APPR (R91). -/
def decodeAppr (w : Word) : Except Illegal Instr :=
  if fField w ≠ 0 ∨ aField w ≠ 0 ∨ bitField 23 7 (bField w) ≠ 0 then .error .reservedBits
  else .ok (.raAppr (bitField 6 0 (bField w)))

/-- Format GET (R92). -/
def decodeGet (w : Word) : Except Illegal Instr :=
  if bitField 7 1 (fField w) ≠ 0 ∨ aField w ≠ 0 ∨ bField w ≠ 0 then .error .reservedBits
  else .ok (.raGet (Signedness.ofCode (bitField 0 0 (fField w))))

/-- The command a word stands for (30_encoding R94, R95): total, every word is one command or illegal. -/
def decode (w : Word) : Except Illegal Instr :=
  let op := opField w
  if op = 0x00 then decodeZ w .nop
  else if op = 0x01 then decodeWr w
  else if op = 0x02 then decodeA w .setlen
  else if op = 0x03 then decodeZ w .clrstat
  else if op = 0x10 then decodeX w true .extBe .extLe
  else if op = 0x20 then decodeZ w .crcInit
  else if op = 0x21 then decodeFeed w
  else if op = 0x22 then decodeCrun w
  else if op = 0x23 then decodeA w .crcCheck
  else if op = 0x24 then decodeZ w .crcSbas
  else if op = 0x30 then decodeZ w .flInit
  else if op = 0x31 then decodeByte w
  else if op = 0x32 then decodeFrun w
  else if op = 0x33 then decodeA w .flCheck
  else if op = 0x34 then decodeZ w .flUbx
  else if op = 0x40 then decodeZ w .raClr
  else if op = 0x41 then decodeX w false (fun _ => .raAppBe) (fun _ => .raAppLe)
  else if op = 0x42 then decodeAppr w
  else if op = 0x43 then decodeGet w
  else .error .reservedOpcode

/-- The command word with the four fields given (30_encoding R82). -/
def commandWord (op f a b : Nat) : Word :=
  BitVec.ofNat 64 (op * 2 ^ 56 + f * 2 ^ 48 + a * 2 ^ 24 + b)

/-- The S bit (R90). -/
def Signedness.code : Signedness → Nat
  | .unsigned => 0
  | .signed => 1

/-- The SRC bit (R90). -/
def Source.code : Source → Nat
  | .fb => 0
  | .rb => 1

/-- The NC code (R90). -/
def Container.code : Container → Nat
  | .b1 => 0
  | .b2 => 1
  | .b4 => 2
  | .b8 => 3

/-- Container sizes in bytes, n = 2^NC (30_encoding R90). -/
def Container.bytes : Container → Nat
  | .b1 => 1
  | .b2 => 2
  | .b4 => 4
  | .b8 => 8

/-- RES_SIGNED of a result (41_bitfield R134). -/
def Signedness.isSigned : Signedness → Bool
  | .unsigned => false
  | .signed => true

/-- F of the big-endian form of format X: S in F[0], E = 0, NC = 0, SRC in F[4] (R90). -/
def fOfBe (sg : Signedness) (src : Source) : Nat := sg.code + 16 * src.code

/-- F of the little-endian form of format X: S in F[0], E = 1 in F[1], NC in F[3:2], SRC in F[4] (R90). -/
def fOfLe (sg : Signedness) (src : Source) (nc : Container) : Nat :=
  sg.code + 2 + 4 * nc.code + 16 * src.code

/-- The word of a command (30_encoding R82 to R94). -/
def encode : Instr → Word
  | .nop => commandWord 0x00 0 0 0
  | .fbw1 addr data => commandWord 0x01 1 addr data.toNat
  | .fbw2 addr data => commandWord 0x01 2 addr data.toNat
  | .fbw3 addr data => commandWord 0x01 3 addr data.toNat
  | .setlen len => commandWord 0x02 0 len 0
  | .clrstat => commandWord 0x03 0 0 0
  | .extBe sg src off w => commandWord 0x10 (fOfBe sg src) off w
  | .extLe sg src nc addr w p => commandWord 0x10 (fOfLe sg src nc) addr (w + 256 * p)
  | .crcInit => commandWord 0x20 0 0 0
  | .crcFeed1 data => commandWord 0x21 1 0 data.toNat
  | .crcFeed2 data => commandWord 0x21 2 0 data.toNat
  | .crcFeed3 data => commandWord 0x21 3 0 data.toNat
  | .crcFeed4 data => commandWord 0x21 4 0 data.toNat
  | .crcFeed5 data => commandWord 0x21 5 0 data.toNat
  | .crcFeed6 data => commandWord 0x21 6 0 data.toNat
  | .crcFeed7 data => commandWord 0x21 7 0 data.toNat
  | .crcFeed8 data => commandWord 0x21 8 0 data.toNat
  | .crcRun pad off count => commandWord 0x22 pad off count
  | .crcCheck off => commandWord 0x23 0 off 0
  | .crcSbas => commandWord 0x24 0 0 0
  | .flInit => commandWord 0x30 0 0 0
  | .flByte data => commandWord 0x31 0 0 data.toNat
  | .flRun off count => commandWord 0x32 0 off count
  | .flCheck off => commandWord 0x33 0 off 0
  | .flUbx => commandWord 0x34 0 0 0
  | .raClr => commandWord 0x40 0 0 0
  | .raAppBe src off w => commandWord 0x41 (fOfBe .unsigned src) off w
  | .raAppLe src nc addr w p => commandWord 0x41 (fOfLe .unsigned src nc) addr (w + 256 * p)
  | .raAppr w => commandWord 0x42 0 0 w
  | .raGet sg => commandWord 0x43 sg.code 0 0

/-- The opcode of each command (30_encoding R94). -/
def Instr.opcode : Instr → Nat
  | .nop => 0x00
  | .fbw1 _ _ => 0x01
  | .fbw2 _ _ => 0x01
  | .fbw3 _ _ => 0x01
  | .setlen _ => 0x02
  | .clrstat => 0x03
  | .extBe _ _ _ _ => 0x10
  | .extLe _ _ _ _ _ _ => 0x10
  | .crcInit => 0x20
  | .crcFeed1 _ => 0x21
  | .crcFeed2 _ => 0x21
  | .crcFeed3 _ => 0x21
  | .crcFeed4 _ => 0x21
  | .crcFeed5 _ => 0x21
  | .crcFeed6 _ => 0x21
  | .crcFeed7 _ => 0x21
  | .crcFeed8 _ => 0x21
  | .crcRun _ _ _ => 0x22
  | .crcCheck _ => 0x23
  | .crcSbas => 0x24
  | .flInit => 0x30
  | .flByte _ => 0x31
  | .flRun _ _ => 0x32
  | .flCheck _ => 0x33
  | .flUbx => 0x34
  | .raClr => 0x40
  | .raAppBe _ _ _ => 0x41
  | .raAppLe _ _ _ _ _ => 0x41
  | .raAppr _ => 0x42
  | .raGet _ => 0x43

/-- The instruction this decoder reads from a table word whose bits are numbered as spec/opcode_table.json numbers them.
Every row has 64 bits; the block takes a command word whole (20_memory R71), so there is no byte order to lay out. -/
def decodeTableWord (nbits w : Nat) : Option Instr :=
  if nbits ≤ 64 then (decode (BitVec.ofNat 64 (w % 2 ^ nbits))).toOption else none

/-- A row of spec/opcode_table.json: a word w belongs to it when `(w & mask) == match` (30_encoding R95). -/
structure TableRow where
  mnemonic : String
  pattern : Word
  mask : Word
deriving DecidableEq, Repr

/-- The word belongs to the row. -/
def TableRow.accepts (r : TableRow) (w : Word) : Bool := w &&& r.mask == r.pattern

/-- The rows of the control family, as spec/opcode_table.json gives them. -/
def controlRows : List TableRow := [
  ⟨"NOP", 0x0000000000000000, 0xFFFFFFFFFFFFFFFF⟩,
  ⟨"FBW.1", 0x0101000000000000, 0xFFFF000000FFFF00⟩,
  ⟨"FBW.2", 0x0102000000000000, 0xFFFF000000FF0000⟩,
  ⟨"FBW.3", 0x0103000000000000, 0xFFFF000000000000⟩,
  ⟨"SETLEN", 0x0200000000000000, 0xFFFF000000FFFFFF⟩,
  ⟨"CLRSTAT", 0x0300000000000000, 0xFFFFFFFFFFFFFFFF⟩]

/-- The rows of the extractor family, as spec/opcode_table.json gives them. -/
def extractorRows : List TableRow := [
  ⟨"EXT.BE", 0x1000000000000000, 0xFFEE000000FFFF80⟩,
  ⟨"EXT.LE", 0x1002000000000000, 0xFFE2000000FFC080⟩]

/-- The rows of the crc family, as spec/opcode_table.json gives them. -/
def crcRows : List TableRow := [
  ⟨"CRC_INIT", 0x2000000000000000, 0xFFFFFFFFFFFFFFFF⟩,
  ⟨"CRC_FEED.1", 0x2101000000000000, 0xFFFFFFFFFFFFFFFE⟩,
  ⟨"CRC_FEED.2", 0x2102000000000000, 0xFFFFFFFFFFFFFFFC⟩,
  ⟨"CRC_FEED.3", 0x2103000000000000, 0xFFFFFFFFFFFFFFF8⟩,
  ⟨"CRC_FEED.4", 0x2104000000000000, 0xFFFFFFFFFFFFFFF0⟩,
  ⟨"CRC_FEED.5", 0x2105000000000000, 0xFFFFFFFFFFFFFFE0⟩,
  ⟨"CRC_FEED.6", 0x2106000000000000, 0xFFFFFFFFFFFFFFC0⟩,
  ⟨"CRC_FEED.7", 0x2107000000000000, 0xFFFFFFFFFFFFFF80⟩,
  ⟨"CRC_FEED.8", 0x2108000000000000, 0xFFFFFFFFFFFFFF00⟩,
  ⟨"CRC_RUN", 0x2200000000000000, 0xFFF8000000000000⟩,
  ⟨"CRC_CHECK", 0x2300000000000000, 0xFFFF000000FFFFFF⟩,
  ⟨"CRC_SBAS", 0x2400000000000000, 0xFFFFFFFFFFFFFFFF⟩]

/-- The rows of the fletcher family, as spec/opcode_table.json gives them. -/
def fletcherRows : List TableRow := [
  ⟨"FL_INIT", 0x3000000000000000, 0xFFFFFFFFFFFFFFFF⟩,
  ⟨"FL_BYTE", 0x3100000000000000, 0xFFFFFFFFFFFFFF00⟩,
  ⟨"FL_RUN", 0x3200000000000000, 0xFFFF000000000000⟩,
  ⟨"FL_CHECK", 0x3300000000000000, 0xFFFF000000FFFFFF⟩,
  ⟨"FL_UBX", 0x3400000000000000, 0xFFFFFFFFFFFFFFFF⟩]

/-- The rows of the reassembly family, as spec/opcode_table.json gives them. -/
def reassemblyRows : List TableRow := [
  ⟨"RA_CLR", 0x4000000000000000, 0xFFFFFFFFFFFFFFFF⟩,
  ⟨"RA_APP.BE", 0x4100000000000000, 0xFFEF000000FFFF80⟩,
  ⟨"RA_APP.LE", 0x4102000000000000, 0xFFE3000000FFC080⟩,
  ⟨"RA_APPR", 0x4200000000000000, 0xFFFFFFFFFFFFFF80⟩,
  ⟨"RA_GET", 0x4300000000000000, 0xFFFEFFFFFFFFFFFF⟩]

/-- The 30 rows of spec/opcode_table.json. -/
def opcodeTable : List TableRow :=
  controlRows ++ extractorRows ++ crcRows ++ fletcherRows ++ reassemblyRows

end Sys2Proof
end

