-- ==== Sys2Proof/Config.lean ====
section
/-!
DEFINITION. What an implementation fixes (00_scope R8), and the one value the spec leaves open.
-/

namespace Sys2Proof

/-- The two constructions of the CRC fold (00_scope R3, 92_eei_decisions D11). -/
inductive CrcImpl where
  | lut
  | bitwise
deriving DecidableEq, Repr

/-- Capacity of the frame buffer in bytes, FB_BYTES: the spec's own value (R8, D7).
DESIGN CHOICE, log entry 1: a part may hold another capacity, at least 65543. -/
def Config.fbBytes : Nat := 65544

/-- The construction of the fold that this model runs. No register shows the choice (42_crc24q R156, I2).
DESIGN CHOICE, log entry 5. -/
def Config.crcImpl : CrcImpl := .lut

/-- Width of the reassembly accumulator, RA_BITS (R8). -/
def Config.raBits : Nat := 128

/-- Length of the reassembly buffer view, RB_BYTES (R8). -/
def Config.rbBytes : Nat := 16

/-- Widest extracted field, MAX_W (R8). -/
def Config.maxW : Nat := 64

/-- The free value of an unwritten frame-buffer byte (20_memory R64): the byte the hardware gives on the
`draw`-th draw at address `addr`. It has no body, so nothing can be proved about its value.
DESIGN CHOICE, log entry 2. -/
opaque Config.freeByte (draw addr : Nat) : Byte

end Sys2Proof
end

