-- ==== Sys2Proof/Machine/State.lean ====
section
/-!
DEFINITION. The architectural state (10_state R20), the state after reset (10_state R39), and why a step can stop.
-/

namespace Sys2Proof.Machine

/-- The frame buffer's written bytes as (address, byte) cells, in strictly rising order of address (20_memory R60,
R64). A byte with no cell is unwritten. -/
abbrev Memory := List Host.Cell

/-- The canonical form of a memory: addresses strictly rising, so that equal contents are equal lists. An unlisted
address reads as "unwritten", which no cell can hold, so no further condition is needed. -/
abbrev Memory.wf (m : Memory) : Prop := m.Pairwise fun x y => x.1 < y.1

/-- The STATUS register, 64 bits, laid out as 10_state R22 gives it; the fields' accessors are in Flags. -/
abbrev Status := BitVec 64

/-- The CRC24Q generator's registers (10_state R25). -/
structure CrcGen where
  /-- CRC, the 24-bit register. -/
  crc : BitVec 24
  /-- D, the shift accumulator. -/
  d : BitVec 8
  /-- DCNT, the number of bits in D not folded yet. -/
  dcnt : BitVec 3
deriving DecidableEq, Repr

/-- The Fletcher-8 engine's running sums (10_state R27). -/
structure FlSums where
  ckA : BitVec 8
  ckB : BitVec 8
deriving DecidableEq, Repr

/-- The reassembly unit (10_state R30). -/
structure Reasm where
  /-- RA, the accumulator. -/
  ra : BitVec 128
  /-- RL, the number of valid bits in RA. -/
  rl : BitVec 8
deriving DecidableEq, Repr

/-- The three operations of the host port (30_encoding R80). -/
inductive HostOp where
  | writeCmd (w : Word)
  | readReg (n : BitVec 8)
  | reset
deriving DecidableEq, Repr

/-- The machine. LUT (R20) is read-only with fixed contents, so it is the constant `lut` (DEDUCED,
log entry 5). -/
structure State where
  /-- FB: the bytes written since reset. -/
  fb : Memory
  /-- FLEN (R24). -/
  flen : BitVec 24
  /-- CRC, D and DCNT (R25). -/
  gen : CrcGen
  /-- CRC_RX (R26). -/
  crcRx : BitVec 24
  /-- CK_A and CK_B (R27). -/
  sums : FlSums
  /-- FL_RX (R28). -/
  flRx : BitVec 16
  /-- RES (R29). -/
  res : BitVec 64
  /-- RA and RL (R30). -/
  asm : Reasm
  /-- STATUS (R22). -/
  status : Status
  /-- ERRCMD (R32). -/
  errCmd : Word
  /-- CSEQ (R31). -/
  cSeq : BitVec 32
  /-- The model's own: the host's operations the block has not taken yet, oldest first
  (DEDUCED, log entry 3). -/
  port : List HostOp
  /-- The model's own: the values ReadReg has returned, newest first (DESIGN CHOICE, log
  entry 3). -/
  replies : List Word
  /-- The model's own: which free values unwritten bytes read as now (DESIGN CHOICE, log
  entry 2). -/
  draws : Nat
deriving DecidableEq, Repr

/-- Why the machine stops. It never does: every word has a defined step (60_exceptions R224, R236), and a read of an
unwritten byte takes a free value (20_memory R64, log entry 2). So there is no constructor. -/
inductive Fault where
deriving DecidableEq, Repr

/-- Why the model gives no meaning. Raised by a refused arm of exec only; safe, because the run ends there. -/
inductive Refusal where
  /-- An instruction whose meaning is not written yet. Raised by exec's own refused arm (there is none now); safe. -/
  | notModelled (mnemonic : String)
deriving DecidableEq, Repr

/-- The state after reset (10_state R39, 70_reset_and_hazards R250). The three model fields' values are log entries 2
and 3. -/
def State.reset : State where
  fb := []
  flen := 0
  gen := ⟨0, 0, 0⟩
  crcRx := 0
  sums := ⟨0, 0⟩
  flRx := 0
  res := 0
  asm := ⟨0, 0⟩
  status := 0
  errCmd := 0
  cSeq := 0
  port := []
  replies := []
  draws := 0

end Sys2Proof.Machine
end

