-- ==== Sys2Proof/Machine/Flags.lean ====
section
/-!
DEFINITION. The fields of STATUS (10_state R22): the error code ERR, and ten one-bit flags.
-/

namespace Sys2Proof.Machine

/-- The one-bit fields of STATUS (R22). -/
inductive Flag where
  | truncS
  | invS
  | illS
  | mismatchS
  | crcDone
  | crcOk
  | flDone
  | flOk
  | resValid
  | resSigned
deriving DecidableEq, Repr

/-- The bit of STATUS each flag stands in (R22). -/
def Flag.bit : Flag → Nat
  | .truncS => 4
  | .invS => 5
  | .illS => 6
  | .mismatchS => 7
  | .crcDone => 8
  | .crcOk => 9
  | .flDone => 10
  | .flOk => 11
  | .resValid => 12
  | .resSigned => 13

/-- The value of a flag. -/
def Status.flag (st : Status) (f : Flag) : Bool := st.getLsbD f.bit

/-- STATUS with one flag written and every other bit kept. -/
def Status.setFlag (st : Status) (f : Flag) (v : Bool) : Status :=
  if v then st ||| BitVec.twoPow 64 f.bit else st &&& ~~~BitVec.twoPow 64 f.bit

/-- ERR, bits [2:0] (R22). -/
def Status.err (st : Status) : BitVec 3 := st.extractLsb' 0 3

/-- STATUS with ERR written and every other bit kept. -/
def Status.setErr (st : Status) (code : BitVec 3) : Status :=
  (st &&& ~~~(7 : BitVec 64)) ||| code.setWidth 64

/-- CRC_DONE and CRC_OK written together: `none` clears both, `some ok` records a comparison (42_crc24q R157 to R160). -/
def Status.setCrcCheck (st : Status) (r : Option Bool) : Status :=
  match r with
  | none => (st.setFlag .crcDone false).setFlag .crcOk false
  | some ok => (st.setFlag .crcDone true).setFlag .crcOk ok

/-- FL_DONE and FL_OK written together, in the same way (43_fletcher8 R181 to R185). -/
def Status.setFlCheck (st : Status) (r : Option Bool) : Status :=
  match r with
  | none => (st.setFlag .flDone false).setFlag .flOk false
  | some ok => (st.setFlag .flDone true).setFlag .flOk ok

/-- MISMATCH_S is set by a comparison that found a difference, and kept otherwise (R22, 60_exceptions R227). -/
def Status.noteMismatch (st : Status) (ok : Bool) : Status :=
  if ok then st else st.setFlag .mismatchS true

/-- The four sticky bits cleared (40_control R113). -/
def Status.clearSticky (st : Status) : Status :=
  (((st.setFlag .truncS false).setFlag .invS false).setFlag .illS false).setFlag .mismatchS false

/-- The flags of a result that EXT or RA_GET has written (41_bitfield R134, 44_reassembly R205). -/
def Status.setResult (st : Status) (isSigned : Bool) : Status :=
  (st.setFlag .resValid true).setFlag .resSigned isSigned

end Sys2Proof.Machine
end

