-- ==== Sys2Proof/Machine/Ops.lean ====
section
/-!
DEFINITION. The named operations: the frame buffer's bytes (20_memory), the errors and their recording, and the
protocol common to all commands (60_exceptions R224).

Recording an error, `raiseError`, is this block's whole form of taking an exception: it saves the command word and
sets the status, and transfers no control (60_exceptions R231). There is no return from it (R232).
-/

namespace Sys2Proof.Machine

/-! ### Frame-buffer bytes -/

/-- The byte written last at an address since reset, none when it is unwritten (20_memory R64). -/
def Memory.read (m : Memory) (a : Nat) : Option Byte :=
  match m with
  | [] => none
  | (x, b) :: rest => if x = a then some b else Memory.read rest a

/-- Write one byte, keeping the cells in rising order of address. -/
def Memory.write (m : Memory) (a : Nat) (v : Byte) : Memory :=
  match m with
  | [] => [(a, v)]
  | (x, b) :: rest =>
    if a < x then (a, v) :: (x, b) :: rest
    else if a = x then (a, v) :: rest
    else (x, b) :: Memory.write rest a v

/-- `MemWrite(a, n, bytes)`: the first byte to the lowest address (00_scope R14). -/
def Memory.writeBytes (m : Memory) (a : Nat) (bytes : List Byte) : Memory :=
  match bytes with
  | [] => m
  | v :: rest => Memory.writeBytes (m.write a v) (a + 1) rest

/-- `FB[a]`: the written byte, or the free value an unwritten byte has during this command (20_memory R64, log
entry 2). -/
def State.fbByte (s : State) (a : Nat) : Byte := (s.fb.read a).getD (Config.freeByte s.draws a)

/-! ### State updates -/

/-- FB replaced. -/
def State.setFb (s : State) (v : Memory) : State := { s with fb := v }

/-- FLEN written. -/
def State.setFlen (s : State) (v : BitVec 24) : State := { s with flen := v }

/-- CRC, D and DCNT written. -/
def State.setGen (s : State) (v : CrcGen) : State := { s with gen := v }

/-- CRC_RX written. -/
def State.setCrcRx (s : State) (v : BitVec 24) : State := { s with crcRx := v }

/-- CK_A and CK_B written. -/
def State.setSums (s : State) (v : FlSums) : State := { s with sums := v }

/-- FL_RX written. -/
def State.setFlRx (s : State) (v : BitVec 16) : State := { s with flRx := v }

/-- RES written. -/
def State.setRes (s : State) (v : BitVec 64) : State := { s with res := v }

/-- RA and RL written. -/
def State.setAsm (s : State) (v : Reasm) : State := { s with asm := v }

/-- STATUS written. -/
def State.setStatus (s : State) (v : Status) : State := { s with status := v }

/-- ERRCMD written. -/
def State.setErrCmd (s : State) (v : Word) : State := { s with errCmd := v }

/-- The pending host operations replaced. -/
def State.setPort (s : State) (v : List HostOp) : State := { s with port := v }

/-- The register-read replies replaced. -/
def State.setReplies (s : State) (v : List Word) : State := { s with replies := v }

/-- `CSEQ <- (CSEQ + 1) mod 2^32` (10_state R31). -/
def State.count (s : State) : State := { s with cSeq := s.cSeq + 1 }

/-- Later reads of unwritten bytes take fresh free values (log entry 2). -/
def State.redraw (s : State) : State := { s with draws := s.draws + 1 }

/-! ### Errors and the common protocol -/

/-- The errors a command can raise (60_exceptions R220). -/
inductive Err where
  | truncated
  | invalidFieldSpec
  | illegalCommand
deriving DecidableEq, Repr

/-- The ERR code of an error (R220). -/
def Err.code : Err → BitVec 3
  | .truncated => 1
  | .invalidFieldSpec => 2
  | .illegalCommand => 3

/-- The sticky bit of an error (60_exceptions R224). -/
def Err.sticky : Err → Flag
  | .truncated => .truncS
  | .invalidFieldSpec => .invS
  | .illegalCommand => .illS

/-- How a command's own rule ends: done, or raising an error. The state an error carries holds what the command keeps:
the state before it, or for a compound command that state with the completed steps (60_exceptions R226). -/
inductive RuleEnd where
  | done (s : State)
  | raise (e : Err) (kept : State)
deriving DecidableEq, Repr

/-- Run the next step of a compound command, unless an earlier one raised an error (42_crc24q R161). -/
def RuleEnd.andThen (r : RuleEnd) (next : State → RuleEnd) : RuleEnd :=
  match r with
  | .done s => next s
  | .raise e kept => .raise e kept

/-- `w[63:56] in {0x10 (EXT), 0x43 (RA_GET)}`: the word was meant to produce RES (60_exceptions R224). -/
def producesRes (w : Word) : Bool := opField w == 0x10 || opField w == 0x43

/-- STATUS after an error: ERR, the error's sticky bit, and RES_VALID cleared when RES was to be produced (R224). -/
def Status.noteError (st : Status) (e : Err) (w : Word) : Status :=
  let st' := (st.setErr e.code).setFlag e.sticky true
  if producesRes w then st'.setFlag .resValid false else st'

/-- Record an error of the command word `w` (60_exceptions R224). -/
def raiseError (e : Err) (w : Word) (s : State) : State :=
  (s.setStatus (s.status.noteError e w)).setErrCmd w

/-- Record a success: ERR is NONE (60_exceptions R224). -/
def recordSuccess (s : State) : State := s.setStatus (s.status.setErr 0)

/-- The end of the common protocol, after the command's own rule (60_exceptions R224). -/
def conclude (w : Word) (r : RuleEnd) : State :=
  match r with
  | .done s => (recordSuccess s).redraw
  | .raise e kept => (raiseError e w kept).redraw

/-- `Execute(w)`: the common protocol around a command's own rule (60_exceptions R224). -/
def execute (w : Word) (rule : State → RuleEnd) (s : State) : Host.Outcome State Fault Refusal :=
  .next (conclude w (rule s.count))

end Sys2Proof.Machine
end

