-- ==== Sys2Proof/Machine/Operands.lean ====
section
/-!
DEFINITION. The operand forms: byte buffers read as bit streams and as little-endian containers, the field read that
EXT and RA_APP share, the widening of a raw field to 64 bits, and data taken from a command word.
-/

namespace Sys2Proof.Machine

/-! ### Bits and bytes of a buffer -/

/-- `StreamBit(buf, k)`: stream bit k is bit 7 - (k mod 8) of byte k div 8 (00_scope R11). -/
def streamBit (buf : Nat → Byte) (k : Nat) : Bool := (buf (k / 8)).getLsbD (7 - k % 8)

/-- The n stream bits from `off` on, in order. -/
def streamBits (buf : Nat → Byte) (off n : Nat) : List Bool :=
  (List.range n).map fun j => streamBit buf (off + j)

/-- The number whose bits, most significant first, are these. -/
def ofBits (bits : List Bool) : Nat := bits.foldl (fun v b => 2 * v + b.toNat) 0

/-- `StreamField(buf, off, w)` (00_scope R11). -/
def streamField (buf : Nat → Byte) (off w : Nat) : Nat := ofBits (streamBits buf off w)

/-- `MemRead(addr, n)`: the n bytes from `addr` on, lowest address first (00_scope R14). -/
def memRead (buf : Nat → Byte) (addr n : Nat) : List Byte :=
  (List.range n).map fun i => buf (addr + i)

/-- `LoadLE(buf, a, n)`: the byte at the lowest address is least significant (00_scope R14). -/
def loadLE (buf : Nat → Byte) (a n : Nat) : Nat :=
  (memRead buf a n).foldr (fun b v => b.toNat + 256 * v) 0

/-- `LoadBE(buf, a, n)`: the byte at the lowest address is most significant (00_scope R14). -/
def loadBE (buf : Nat → Byte) (a n : Nat) : Nat :=
  (memRead buf a n).foldl (fun v b => 256 * v + b.toNat) 0

/-! ### Data of a command word -/

/-- The low k bits of a number, most significant first: the bits of CRC_FEED in the order they are fed (42_crc24q
R158). -/
def bitsOf (k v : Nat) : List Bool := (List.range k).map fun i => v.testBit (k - 1 - i)

/-- The low n bytes of a number, most significant first: the data bytes of FBW in the order of rising addresses
(40_control R111). -/
def bytesOf (n v : Nat) : List Byte :=
  (List.range n).map fun i => BitVec.ofNat 8 (bitField (8 * (n - i) - 1) (8 * (n - i - 1)) v)

/-! ### Source buffers -/

/-- RBV, the accumulator left-aligned in 128 bits (20_memory R63). -/
def rbView (u : Reasm) : BitVec 128 := u.ra <<< (Config.raBits - u.rl.toNat)

/-- `RB[i]`, for i in 0..15 (20_memory R63). -/
def rbByte (u : Reasm) (i : Nat) : Byte := (rbView u).extractLsb' (120 - 8 * i) 8

/-- The bytes of a source buffer (41_bitfield R133). -/
def State.buffer (s : State) (src : Source) : Nat → Byte :=
  match src with
  | .fb => s.fbByte
  | .rb => rbByte s.asm

/-- The length of a source buffer: FLEN, or 16 bytes (41_bitfield R133). -/
def State.bufferLen (s : State) (src : Source) : Nat :=
  match src with
  | .fb => s.flen.toNat
  | .rb => Config.rbBytes

/-- `FrameSpanOK` (20_memory R62): the bytes lie in the frame. -/
def State.frameHas (s : State) (firstByte nBytes : Nat) : Bool := firstByte + nBytes ≤ s.flen.toNat

/-- `FrameBitsOK` (20_memory R62): the stream bits lie in the frame. -/
def State.frameHasBits (s : State) (firstBit nBits : Nat) : Bool := firstBit + nBits ≤ 8 * s.flen.toNat

/-! ### The field read -/

/-- `BEField` (41_bitfield R131). -/
def beField (buf : Nat → Byte) (len off w : Nat) : Except Err Nat :=
  if off + w > 8 * len then .error .truncated else .ok (streamField buf off w)

/-- `LEField` (41_bitfield R132). -/
def leField (buf : Nat → Byte) (len addr n p w : Nat) : Except Err Nat :=
  if p + w > 8 * n then .error .invalidFieldSpec
  else if addr + n > len then .error .truncated
  else .ok (loadLE buf addr n / 2 ^ (8 * n - p - w) % 2 ^ w)

/-- The operands of a field of format X (30_encoding R90): a stream offset, or a container and a position in it. -/
inductive FieldAt where
  | be (off : Nat)
  | le (nc : Container) (addr p : Nat)
deriving DecidableEq, Repr

/-- A legal field width is 1 to 64 (41_bitfield R133). -/
def widthOK (w : Nat) : Bool := 1 ≤ w && w ≤ Config.maxW

/-- `FieldRead` (41_bitfield R133): width, then container fit, then bounds. -/
def fieldRead (s : State) (src : Source) (place : FieldAt) (w : Nat) : Except Err Nat :=
  if !widthOK w then .error .invalidFieldSpec
  else match place with
    | .be off => beField (s.buffer src) (s.bufferLen src) off w
    | .le nc addr p => leField (s.buffer src) (s.bufferLen src) addr nc.bytes p w

/-- `sext_N(v)` as an integer (00_scope R13). -/
def sext (n v : Nat) : Int := if v.testBit (n - 1) then (v : Int) - 2 ^ n else v

/-- A raw field of width `n` as RES holds it (10_state R29, 41_bitfield R135). -/
def widen (sg : Signedness) (n v : Nat) : BitVec 64 :=
  match sg with
  | .unsigned => BitVec.ofNat 64 v
  | .signed => BitVec.ofInt 64 (sext n v)

end Sys2Proof.Machine
end

