-- ==== Sys2Proof/Machine/Control.lean ====
section
/-!
DEFINITION. The frame-buffer and block-control commands (40_control): NOP, FBW, SETLEN, CLRSTAT.
-/

namespace Sys2Proof.Machine

/-- NOP does nothing of its own (R114). -/
def nopRule (s : State) : RuleEnd := .done s

/-- FBW: all the bytes or none (R111). -/
def fbwRule (addr : Nat) (bytes : List Byte) (s : State) : RuleEnd :=
  if addr + bytes.length > Config.fbBytes then .raise .illegalCommand s
  else .done (s.setFb (s.fb.writeBytes addr bytes))

/-- SETLEN (R112). -/
def setlenRule (len : Nat) (s : State) : RuleEnd :=
  if len > Config.fbBytes then .raise .illegalCommand s
  else .done (s.setFlen (BitVec.ofNat 24 len))

/-- CLRSTAT (R113). -/
def clrstatRule (s : State) : RuleEnd := .done (s.setStatus s.status.clearSticky)

/-- NOP (R114). -/
def execNop (s : State) : Host.Outcome State Fault Refusal := execute (encode .nop) nopRule s

/-- FBW.1 (R111). -/
def execFbw1 (addr : Nat) (data : BitVec 8) (s : State) : Host.Outcome State Fault Refusal :=
  execute (encode (.fbw1 addr data)) (fbwRule addr (bytesOf 1 data.toNat)) s

/-- FBW.2 (R111). -/
def execFbw2 (addr : Nat) (data : BitVec 16) (s : State) : Host.Outcome State Fault Refusal :=
  execute (encode (.fbw2 addr data)) (fbwRule addr (bytesOf 2 data.toNat)) s

/-- FBW.3 (R111). -/
def execFbw3 (addr : Nat) (data : BitVec 24) (s : State) : Host.Outcome State Fault Refusal :=
  execute (encode (.fbw3 addr data)) (fbwRule addr (bytesOf 3 data.toNat)) s

/-- SETLEN (R112). -/
def execSetlen (len : Nat) (s : State) : Host.Outcome State Fault Refusal :=
  execute (encode (.setlen len)) (setlenRule len) s

/-- CLRSTAT (R113). -/
def execClrstat (s : State) : Host.Outcome State Fault Refusal := execute (encode .clrstat) clrstatRule s

end Sys2Proof.Machine
end

