-- ==== Sys2Proof/Machine/Extract.lean ====
section
/-!
DEFINITION. The bitfield extractor (41_bitfield): EXT, in its big-endian and its little-endian form.
-/

namespace Sys2Proof.Machine

/-- RES and its two flags after a successful EXT or RA_GET (41_bitfield R134, 44_reassembly R205). -/
def writeResult (sg : Signedness) (n raw : Nat) (s : State) : State :=
  (s.setRes (widen sg n raw)).setStatus (s.status.setResult sg.isSigned)

/-- EXT (R134). -/
def extRule (sg : Signedness) (src : Source) (place : FieldAt) (w : Nat) (s : State) : RuleEnd :=
  match fieldRead s src place w with
  | .error e => .raise e s
  | .ok raw => .done (writeResult sg w raw s)

/-- EXT.BE (R134, E = 0). -/
def execExtBe (sg : Signedness) (src : Source) (off w : Nat) (s : State) : Host.Outcome State Fault Refusal :=
  execute (encode (.extBe sg src off w)) (extRule sg src (.be off) w) s

/-- EXT.LE (R134, E = 1). -/
def execExtLe (sg : Signedness) (src : Source) (nc : Container) (addr w p : Nat) (s : State) :
    Host.Outcome State Fault Refusal :=
  execute (encode (.extLe sg src nc addr w p)) (extRule sg src (.le nc addr p) w) s

end Sys2Proof.Machine
end

