-- ==== Sys2Proof/Machine/Fletcher.lean ====
section
/-!
DEFINITION. The Fletcher-8 engine (43_fletcher8): FL_INIT, FL_BYTE, FL_RUN, FL_CHECK, FL_UBX.
-/

namespace Sys2Proof.Machine

/-- `FlByte(b)`: CK_B adds the updated CK_A, both modulo 256 (R180). -/
def flByte (c : FlSums) (b : Byte) : FlSums := ⟨c.ckA + b, c.ckB + (c.ckA + b)⟩

/-- The bytes of a region fed in order. -/
def flFeed (c : FlSums) (bytes : List Byte) : FlSums := bytes.foldl flByte c

/-- New sums, and FL_DONE and FL_OK cleared, because the Fletcher state has changed (10_state R22). -/
def restartFl (c : FlSums) (s : State) : State := (s.setSums c).setStatus (s.status.setFlCheck none)

/-- FL_INIT (R181). -/
def flInitRule (s : State) : RuleEnd := .done (restartFl ⟨0, 0⟩ s)

/-- FL_BYTE (R182). -/
def flByteRule (b : Byte) (s : State) : RuleEnd := .done (restartFl (flFeed s.sums [b]) s)

/-- FL_RUN: the region is tested before any byte is fed (R183). -/
def flRunRule (off count : Nat) (s : State) : RuleEnd :=
  if !s.frameHas off count then .raise .truncated s
  else .done (restartFl (flFeed s.sums (memRead s.fbByte off count)) s)

/-- The comparison with the received ck_a and ck_b: FL_DONE and FL_OK, and MISMATCH_S on a difference (R185). -/
def flOutcome (a b : Byte) (s : State) : Status :=
  let ok := a == s.sums.ckA && b == s.sums.ckB
  (s.status.setFlCheck (some ok)).noteMismatch ok

/-- FL_CHECK: ck_a is received at A and ck_b at A + 1 (R185). -/
def flCheckRule (off : Nat) (s : State) : RuleEnd :=
  if !s.frameHas off 2 then .raise .truncated s
  else .done ((s.setFlRx (BitVec.ofNat 16 (loadLE s.fbByte off 2))).setStatus
    (flOutcome (s.fbByte off) (s.fbByte (off + 1)) s))

/-- The payload length of a UBX frame at FB[0] (20_memory R69, R187). -/
def ubxLength (s : State) : Nat := loadLE s.fbByte 4 2

/-- FL_UBX: the length field must lie in the frame, then FL_INIT, FL_RUN and FL_CHECK over the region it gives
(R186, R187). -/
def flUbxRule (s : State) : RuleEnd :=
  if !s.frameHas 0 6 then .raise .truncated s
  else ((flInitRule s).andThen (flRunRule 2 (4 + ubxLength s))).andThen (flCheckRule (6 + ubxLength s))

/-- FL_INIT (R181). -/
def execFlInit (s : State) : Host.Outcome State Fault Refusal := execute (encode .flInit) flInitRule s

/-- FL_BYTE (R182). -/
def execFlByte (data : BitVec 8) (s : State) : Host.Outcome State Fault Refusal :=
  execute (encode (.flByte data)) (flByteRule data) s

/-- FL_RUN (R183). -/
def execFlRun (off count : Nat) (s : State) : Host.Outcome State Fault Refusal :=
  execute (encode (.flRun off count)) (flRunRule off count) s

/-- FL_CHECK (R185). -/
def execFlCheck (off : Nat) (s : State) : Host.Outcome State Fault Refusal :=
  execute (encode (.flCheck off)) (flCheckRule off) s

/-- FL_UBX (R186). -/
def execFlUbx (s : State) : Host.Outcome State Fault Refusal := execute (encode .flUbx) flUbxRule s

end Sys2Proof.Machine
end

