-- ==== Sys2Proof/Machine/Reassembly.lean ====
section
/-!
DEFINITION. The split-field reassembly unit (44_reassembly): RA_CLR, RA_APP, RA_APPR, RA_GET.
-/

namespace Sys2Proof.Machine

/-- `Append(raw, W)`: the new chunk goes below the bits already held (R202). -/
def appendChunk (u : Reasm) (raw w : Nat) : Reasm :=
  ⟨(u.ra <<< w) ||| BitVec.ofNat 128 raw, BitVec.ofNat 8 (u.rl.toNat + w)⟩

/-- The checks both appends make first: the width, then the capacity (R203, R204). -/
def chunkFits (u : Reasm) (w : Nat) : Bool := widthOK w && u.rl.toNat + w ≤ Config.raBits

/-- RA_CLR (R201). -/
def raClrRule (s : State) : RuleEnd := .done (s.setAsm ⟨0, 0⟩)

/-- RA_APP: RB is read before the append (R203). -/
def raAppRule (src : Source) (place : FieldAt) (w : Nat) (s : State) : RuleEnd :=
  if !chunkFits s.asm w then .raise .invalidFieldSpec s
  else match fieldRead s src place w with
    | .error e => .raise e s
    | .ok raw => .done (s.setAsm (appendChunk s.asm raw w))

/-- RA_APPR: the low W bits of RES, which must hold a field value (R204). -/
def raApprRule (w : Nat) (s : State) : RuleEnd :=
  if !chunkFits s.asm w then .raise .invalidFieldSpec s
  else if !s.status.flag .resValid then .raise .invalidFieldSpec s
  else .done (s.setAsm (appendChunk s.asm (s.res.toNat % 2 ^ w) w))

/-- RA_GET (R205). -/
def raGetRule (sg : Signedness) (s : State) : RuleEnd :=
  if !widthOK s.asm.rl.toNat then .raise .invalidFieldSpec s
  else .done (writeResult sg s.asm.rl.toNat s.asm.ra.toNat s)

/-- RA_CLR (R201). -/
def execRaClr (s : State) : Host.Outcome State Fault Refusal := execute (encode .raClr) raClrRule s

/-- RA_APP.BE (R203, E = 0). -/
def execRaAppBe (src : Source) (off w : Nat) (s : State) : Host.Outcome State Fault Refusal :=
  execute (encode (.raAppBe src off w)) (raAppRule src (.be off) w) s

/-- RA_APP.LE (R203, E = 1). -/
def execRaAppLe (src : Source) (nc : Container) (addr w p : Nat) (s : State) :
    Host.Outcome State Fault Refusal :=
  execute (encode (.raAppLe src nc addr w p)) (raAppRule src (.le nc addr p) w) s

/-- RA_APPR (R204). -/
def execRaAppr (w : Nat) (s : State) : Host.Outcome State Fault Refusal :=
  execute (encode (.raAppr w)) (raApprRule w) s

/-- RA_GET (R205). -/
def execRaGet (sg : Signedness) (s : State) : Host.Outcome State Fault Refusal :=
  execute (encode (.raGet sg)) (raGetRule sg) s

end Sys2Proof.Machine
end

