-- ==== Sys2Proof/Machine/Dispatch.lean ====
section
/-!
DEFINITION. The meaning of every command, one arm per constructor of Instr.
-/

namespace Sys2Proof.Machine

def exec (i : Instr) (s : State) : Host.Outcome State Fault Refusal :=
  match i with
  | .nop => Sys2Proof.Machine.execNop s
  | .fbw1 addr data => Sys2Proof.Machine.execFbw1 addr data s
  | .fbw2 addr data => Sys2Proof.Machine.execFbw2 addr data s
  | .fbw3 addr data => Sys2Proof.Machine.execFbw3 addr data s
  | .setlen len => Sys2Proof.Machine.execSetlen len s
  | .clrstat => Sys2Proof.Machine.execClrstat s
  | .extBe sg src off w => Sys2Proof.Machine.execExtBe sg src off w s
  | .extLe sg src nc addr w p => Sys2Proof.Machine.execExtLe sg src nc addr w p s
  | .crcInit => Sys2Proof.Machine.execCrcInit s
  | .crcFeed1 data => Sys2Proof.Machine.execCrcFeed1 data s
  | .crcFeed2 data => Sys2Proof.Machine.execCrcFeed2 data s
  | .crcFeed3 data => Sys2Proof.Machine.execCrcFeed3 data s
  | .crcFeed4 data => Sys2Proof.Machine.execCrcFeed4 data s
  | .crcFeed5 data => Sys2Proof.Machine.execCrcFeed5 data s
  | .crcFeed6 data => Sys2Proof.Machine.execCrcFeed6 data s
  | .crcFeed7 data => Sys2Proof.Machine.execCrcFeed7 data s
  | .crcFeed8 data => Sys2Proof.Machine.execCrcFeed8 data s
  | .crcRun pad off count => Sys2Proof.Machine.execCrcRun pad off count s
  | .crcCheck off => Sys2Proof.Machine.execCrcCheck off s
  | .crcSbas => Sys2Proof.Machine.execCrcSbas s
  | .flInit => Sys2Proof.Machine.execFlInit s
  | .flByte data => Sys2Proof.Machine.execFlByte data s
  | .flRun off count => Sys2Proof.Machine.execFlRun off count s
  | .flCheck off => Sys2Proof.Machine.execFlCheck off s
  | .flUbx => Sys2Proof.Machine.execFlUbx s
  | .raClr => Sys2Proof.Machine.execRaClr s
  | .raAppBe src off w => Sys2Proof.Machine.execRaAppBe src off w s
  | .raAppLe src nc addr w p => Sys2Proof.Machine.execRaAppLe src nc addr w p s
  | .raAppr w => Sys2Proof.Machine.execRaAppr w s
  | .raGet sg => Sys2Proof.Machine.execRaGet sg s

end Sys2Proof.Machine
end

