-- ==== Sys2Proof/Machine/Port.lean ====
section
/-!
DEFINITION. The host port (30_encoding R80): what a command word, a register read and a reset do.
-/

namespace Sys2Proof.Machine

/-- `WriteCmd(w)`: a word that is a command runs it, and any other word raises ILLEGAL_COMMAND and has no effect
beyond the common protocol (30_encoding R95, 60_exceptions R223). -/
def writeCmd (w : Word) (s : State) : Host.Outcome State Fault Refusal :=
  match decode w with
  | .ok i => exec i s
  | .error _ => execute w (.raise .illegalCommand) s

/-- The host register map (10_state R21); the reserved numbers read 0 (R34). -/
def readReg (n : BitVec 8) (s : State) : Word :=
  if n = 0x00 then s.status
  else if n = 0x01 then s.flen.setWidth 64
  else if n = 0x02 then (0 : BitVec 29) ++ s.gen.dcnt ++ s.gen.d ++ s.gen.crc
  else if n = 0x03 then s.crcRx.setWidth 64
  else if n = 0x04 then (0 : BitVec 48) ++ s.sums.ckB ++ s.sums.ckA
  else if n = 0x05 then s.flRx.setWidth 64
  else if n = 0x06 then s.res
  else if n = 0x07 then s.asm.ra.extractLsb' 0 64
  else if n = 0x08 then s.asm.ra.extractLsb' 64 64
  else if n = 0x09 then s.asm.rl.setWidth 64
  else if n = 0x0A then s.cSeq.setWidth 64
  else if n = 0x0B then s.errCmd
  else 0

/-- `ReadReg(n)`: the value goes to the host, and nothing else changes (10_state R35). -/
def answerRead (n : BitVec 8) (s : State) : State := s.setReplies (readReg n s :: s.replies)

/-- `Reset` (70_reset_and_hazards R250): every register at its reset value and every FB byte unwritten. What the host
still has to send and has received is the host's, and unwritten bytes take fresh free values (log entries 2, 3). -/
def resetBlock (s : State) : State :=
  { State.reset with port := s.port, replies := s.replies, draws := s.draws + 1 }

/-- One host operation. -/
def serve (o : HostOp) (s : State) : Host.Outcome State Fault Refusal :=
  match o with
  | .writeCmd w => writeCmd w s
  | .readReg n => .next (answerRead n s)
  | .reset => .next (resetBlock s)

/-- The word that lies in the low `nbits` bits of `w`, as a WriteCmd ahead of what the host still has to send. -/
def sendFirst (nbits w : Nat) (s : State) : State :=
  s.setPort (.writeCmd (BitVec.ofNat 64 (w % 2 ^ nbits)) :: s.port)

end Sys2Proof.Machine
end

