-- ==== Sys2Proof/Machine/Step.lean ====
section
/-!
DEFINITION. One step: the block takes the host's oldest operation (20_memory R74, R77).
-/

namespace Sys2Proof.Machine

/-- Take the oldest host operation and serve it; with none pending the block waits, unchanged (70_reset_and_hazards
R251; DEDUCED, log entry 3). -/
def step (s : State) : Host.Outcome State Fault Refusal :=
  match s.port with
  | [] => .next s
  | o :: rest => serve o (s.setPort rest)

/-- The block fetches nothing: its next command is the host's oldest operation. So a word is placed by putting its
WriteCmd before the pending operations (10_state R37; DEDUCED, log entry 4). -/
def State.withFetchWord (s : State) (nbits w : Nat) : State := sendFirst nbits w s

end Sys2Proof.Machine
end

