-- ==== Sys2Proof/Machine/Assembly.lean ====
section
/-!
DEFINITION. The host's notation for commands: the operands of a field given by value-bit labels (41_bitfield R137), a
printer and an assembler of the syntax (30_encoding R97), and the pseudo-instructions' expansions (30_encoding R98).
The block itself sees command words only.
-/

namespace Sys2Proof.Machine

/-- The EXT that reads the field labelled "bits [hi:lo]", bit 0 least significant, of the little-endian word in a
container at byte `a` (41_bitfield R137). -/
def extOfLeLabel (sg : Signedness) (src : Source) (nc : Container) (a hi lo : Nat) : Instr :=
  .extLe sg src nc a (hi - lo + 1) (8 * nc.bytes - 1 - hi)

/-- The EXT that reads the field labelled "bits [hi:lo]", bit 0 least significant, of byte `b` of a big-endian stream
(41_bitfield R137). -/
def extOfBeLabel (sg : Signedness) (src : Source) (b hi lo : Nat) : Instr :=
  .extBe sg src (8 * b + 7 - hi) (hi - lo + 1)

/-- The letter of the S bit. -/
def signLetter : Signedness → String
  | .unsigned => "U"
  | .signed => "S"

/-- The name of a source buffer. -/
def sourceName : Source → String
  | .fb => "fb"
  | .rb => "rb"

/-- A mnemonic and its operands, separated as rule R97 shows. -/
def asmLine (name : String) (operands : List String) : String :=
  match operands with
  | [] => name
  | _ => name ++ " " ++ ", ".intercalate operands

/-- The container suffix, LE1, LE2, LE4 or LE8. -/
def containerName (nc : Container) : String := "LE" ++ toString nc.bytes

/-- A command in the assembler syntax, numbers in decimal (30_encoding R97). -/
def asm : Instr → String
  | .fbw1 addr data => asmLine "FBW.1" [toString addr, toString data.toNat]
  | .fbw2 addr data => asmLine "FBW.2" [toString addr, toString data.toNat]
  | .fbw3 addr data => asmLine "FBW.3" [toString addr, toString data.toNat]
  | .setlen len => asmLine "SETLEN" [toString len]
  | .extBe sg src off w =>
    asmLine ("EXT." ++ signLetter sg ++ ".BE") [sourceName src, toString off, toString w]
  | .extLe sg src nc addr w p =>
    asmLine ("EXT." ++ signLetter sg ++ "." ++ containerName nc)
      [sourceName src, toString addr, toString w, toString p]
  | .crcFeed1 data => asmLine "CRC_FEED.1" [toString data.toNat]
  | .crcFeed2 data => asmLine "CRC_FEED.2" [toString data.toNat]
  | .crcFeed3 data => asmLine "CRC_FEED.3" [toString data.toNat]
  | .crcFeed4 data => asmLine "CRC_FEED.4" [toString data.toNat]
  | .crcFeed5 data => asmLine "CRC_FEED.5" [toString data.toNat]
  | .crcFeed6 data => asmLine "CRC_FEED.6" [toString data.toNat]
  | .crcFeed7 data => asmLine "CRC_FEED.7" [toString data.toNat]
  | .crcFeed8 data => asmLine "CRC_FEED.8" [toString data.toNat]
  | .crcRun pad off count =>
    asmLine (if pad = 0 then "CRC_RUN" else "CRC_RUN." ++ toString pad) [toString off, toString count]
  | .crcCheck off => asmLine "CRC_CHECK" [toString off]
  | .flByte data => asmLine "FL_BYTE" [toString data.toNat]
  | .flRun off count => asmLine "FL_RUN" [toString off, toString count]
  | .flCheck off => asmLine "FL_CHECK" [toString off]
  | .raAppBe src off w => asmLine "RA_APP.BE" [sourceName src, toString off, toString w]
  | .raAppLe src nc addr w p =>
    asmLine ("RA_APP." ++ containerName nc) [sourceName src, toString addr, toString w, toString p]
  | .raAppr w => asmLine "RA_APPR" [toString w]
  | .raGet sg => asmLine ("RA_GET." ++ signLetter sg) []
  | .nop => "NOP"
  | .clrstat => "CLRSTAT"
  | .crcInit => "CRC_INIT"
  | .crcSbas => "CRC_SBAS"
  | .flInit => "FL_INIT"
  | .flUbx => "FL_UBX"
  | .raClr => "RA_CLR"

/-! ### Reading a line -/

/-- The pieces of a text between the separators. -/
def pieces (sep : Char) : List Char → List (List Char)
  | [] => [[]]
  | c :: rest =>
    if c = sep then [] :: pieces sep rest
    else match pieces sep rest with
      | [] => [[c]]
      | p :: ps => (c :: p) :: ps

/-- A text without the blanks around it. -/
def trimBlanks (l : List Char) : List Char :=
  (((l.dropWhile (· = ' ')).reverse).dropWhile (· = ' ')).reverse

/-- A digit's value, in decimal or hexadecimal. -/
def digitValue (c : Char) : Nat :=
  if '0' ≤ c ∧ c ≤ '9' then c.toNat - '0'.toNat
  else if 'a' ≤ c ∧ c ≤ 'f' then c.toNat - 'a'.toNat + 10
  else if 'A' ≤ c ∧ c ≤ 'F' then c.toNat - 'A'.toNat + 10
  else 16

/-- A digit string in a base; none where it is empty or holds anything else. -/
def digits (base : Nat) (l : List Char) : Option Nat :=
  if l ≠ [] ∧ l.all (fun c => decide (digitValue c < base)) then
    some (l.foldl (fun acc c => acc * base + digitValue c) 0)
  else none

/-- A number, decimal, or hexadecimal with `0x` (30_encoding R97). -/
def readNumber (l : List Char) : Option Nat :=
  match l with
  | '0' :: 'x' :: hex => digits 16 hex
  | dec => digits 10 dec

/-- An operand of a line. -/
inductive AsmArg where
  | num (n : Nat)
  | buf (src : Source)
deriving DecidableEq, Repr

/-- `fb`, `rb` or a number. -/
def readArg (l : List Char) : Option AsmArg :=
  if l = ['f', 'b'] then some (.buf .fb)
  else if l = ['r', 'b'] then some (.buf .rb)
  else (readNumber l).map .num

/-- The operands of a line, separated by commas. -/
def readArgs (l : List Char) : Option (List AsmArg) :=
  if trimBlanks l = [] then some [] else (pieces ',' l).mapM fun p => readArg (trimBlanks p)

/-- The letter of the S bit, read. -/
def readSign (n : String) : Option Signedness :=
  if n = "U" then some .unsigned else if n = "S" then some .signed else none

/-- The container suffix, read. -/
def readContainer (n : String) : Option Container :=
  if n = "LE1" then some .b1 else if n = "LE2" then some .b2
  else if n = "LE4" then some .b4 else if n = "LE8" then some .b8 else none

/-- The word of a command; none where a number does not fit its field. -/
def wordOf (i : Instr) : Option Word := if i.wf then some (encode i) else none

/-- A word with data in B. A data bit that the command has no room for is written all the same, and the block rejects the
word (30_encoding R95, 95_test_vectors V-CTL-4). -/
def dataWord (op f a b : Nat) : Option Word :=
  if fits24 a ∧ fits24 b then some (commandWord op f a b) else none

/-- A line cut up: the mnemonic at its points, and the operands. -/
structure AsmLine where
  name : List String
  args : List AsmArg
deriving DecidableEq, Repr

/-- `EXT.<U|S>.<BE|LE<n>> <fb|rb>, …`: S, the suffix, and the operands (30_encoding R97). -/
def readExt (sg suffix : String) (args : List AsmArg) : Option Word :=
  match args with
  | [.buf src, .num off, .num w] =>
    if suffix = "BE" then (readSign sg).bind fun s => wordOf (.extBe s src off w) else none
  | [.buf src, .num addr, .num w, .num p] =>
    (readSign sg).bind fun s => (readContainer suffix).bind fun nc => wordOf (.extLe s src nc addr w p)
  | _ => none

/-- `RA_APP.<BE|LE<n>> <fb|rb>, …`: the suffix and the operands (30_encoding R97). -/
def readAppend (suffix : String) (args : List AsmArg) : Option Word :=
  match args with
  | [.buf src, .num off, .num w] => if suffix = "BE" then wordOf (.raAppBe src off w) else none
  | [.buf src, .num addr, .num w, .num p] => (readContainer suffix).bind fun nc => wordOf (.raAppLe src nc addr w p)
  | _ => none

/-- The count a mnemonic ends in, when it lies in 1..top (30_encoding R97). -/
def readCount (top : Nat) (n : String) : Option Nat :=
  (readNumber n.toList).filter fun k => 1 ≤ k && k ≤ top

/-- The word of a command line (30_encoding R97). -/
def readCommand (l : AsmLine) : Option Word :=
  match l.name, l.args with
  | [n], [] =>
    if n = "NOP" then wordOf .nop else if n = "CLRSTAT" then wordOf .clrstat
    else if n = "CRC_INIT" then wordOf .crcInit else if n = "CRC_SBAS" then wordOf .crcSbas
    else if n = "FL_INIT" then wordOf .flInit else if n = "FL_UBX" then wordOf .flUbx
    else if n = "RA_CLR" then wordOf .raClr else none
  | [n], [.num a] =>
    if n = "SETLEN" then wordOf (.setlen a) else if n = "CRC_CHECK" then wordOf (.crcCheck a)
    else if n = "FL_BYTE" then dataWord 0x31 0 0 a else if n = "FL_CHECK" then wordOf (.flCheck a)
    else if n = "RA_APPR" then wordOf (.raAppr a) else none
  | [n], [.num a, .num b] =>
    if n = "CRC_RUN" then wordOf (.crcRun 0 a b) else if n = "FL_RUN" then wordOf (.flRun a b) else none
  | [n, x], [] => if n = "RA_GET" then (readSign x).bind fun s => wordOf (.raGet s) else none
  | [n, x], [.num a] =>
    if n = "CRC_FEED" then (readCount 8 x).bind fun k => dataWord 0x21 k 0 a else none
  | [n, x], [.num a, .num b] =>
    if n = "FBW" then (readCount 3 x).bind fun k => dataWord 0x01 k a b
    else if n = "CRC_RUN" then (readNumber x.toList).bind fun pad => wordOf (.crcRun pad a b)
    else none
  | [n, x], args => if n = "RA_APP" then readAppend x args else none
  | [n, sg, x], args => if n = "EXT" then readExt sg x args else none
  | _, _ => none

/-- The command lines a line stands for: a pseudo-instruction's expansion, or the line itself (30_encoding R98; RA_FIELD2
is expanded by `readField2`). -/
def expand (l : AsmLine) : List AsmLine :=
  match l.name, l.args with
  | [n], [] =>
    if n = "CRC24Q_29" then [⟨["CRC_INIT"], []⟩, ⟨["CRC_RUN", "6"], [.num 0, .num 226]⟩] else [l]
  | [n], [.num a] =>
    if n = "CRC_BYTE" then [⟨["CRC_FEED", "8"], [.num a]⟩]
    else if n = "CRC_BIT" then [⟨["CRC_FEED", "1"], [.num a]⟩]
    else if n = "CRC_PAD" then [⟨["CRC_FEED", toString a], [.num 0]⟩]
    else [l]
  | [n], [.num a, .num b] =>
    if n = "FL_SUM" then [⟨["FL_INIT"], []⟩, ⟨["FL_RUN"], [.num a, .num b]⟩]
    else if n = "LDB" then [⟨["FBW", "1"], [.num a, .num b]⟩]
    else [l]
  | [n, x], [.num a, .num b] =>
    if n = "EXTU" ∧ x = "BE" then [⟨["EXT", "U", "BE"], [.buf .fb, .num a, .num b]⟩]
    else if n = "EXTS" ∧ x = "BE" then [⟨["EXT", "S", "BE"], [.buf .fb, .num a, .num b]⟩]
    else [l]
  | _, _ => [l]

/-- A first word, and what stands after it. -/
def firstWord (l : List Char) : List Char × List Char :=
  ((trimBlanks l).takeWhile (· ≠ ' '), (trimBlanks l).dropWhile (· ≠ ' '))

/-- The RA_APP of a chunk of RA_FIELD2, written as that RA_APP's suffix and operands (DESIGN CHOICE, log entry 11). -/
def readChunk (l : List Char) : Option AsmLine :=
  (readArgs (firstWord l).2).map fun args => ⟨["RA_APP", String.ofList (firstWord l).1], args⟩

/-- The expansion of RA_FIELD2, whose two chunks stand with a semicolon between them (30_encoding R98). -/
def readField2 (l : List Char) : Option (List AsmLine) :=
  match pieces ';' l with
  | [x, y] => (readChunk x).bind fun c1 => (readChunk y).map fun c2 => [⟨["RA_CLR"], []⟩, c1, c2]
  | _ => none

/-- The words of one line, a command or a pseudo-instruction; none where it is neither, or a number does not fit its field
(30_encoding R97, R98). -/
def assemble (line : String) : Option (List Word) :=
  let (head, tail) := firstWord line.toList
  let name := (pieces '.' head).map String.ofList
  let lines :=
    if name = ["RA_FIELD2"] then readField2 tail else (readArgs tail).map fun args => expand ⟨name, args⟩
  lines.bind (·.mapM readCommand)

end Sys2Proof.Machine
end

