-- ==== Sys2Proof/Safety.lean ====
section
/-!
DEFINITION. The terms claims are stated in: the machine's invariant, which parts of the state two states share, and
what it means that a command succeeded or failed.
-/

namespace Sys2Proof.Machine

/-! ### The invariant -/

/-- STATUS holds nothing in its reserved bits, no ERR code above 3, and no OK flag without its DONE flag (10_state
R22, R40). -/
abbrev Status.wf (st : Status) : Prop :=
  (∀ j < 64, j = 3 ∨ 14 ≤ j → st.getLsbD j = false) ∧ st.err.toNat ≤ 3 ∧
  (st.flag .crcOk = true → st.flag .crcDone = true) ∧ (st.flag .flOk = true → st.flag .flDone = true)

/-- RL is at most 128 and RA holds no bit at or above RL (10_state R30). -/
abbrev Reasm.wf (u : Reasm) : Prop := u.rl.toNat ≤ Config.raBits ∧ u.ra.toNat < 2 ^ u.rl.toNat

/-- What holds after reset and after every command: the invariants of 10_state R40, FB in its canonical form and within
its capacity (20_memory R60), the reserved bits of STATUS (R22), and D showing only unfolded bits (42_crc24q R158). -/
abbrev Invariant (s : State) : Prop :=
  s.fb.wf ∧ (∀ c ∈ s.fb, c.1 < Config.fbBytes) ∧ s.flen.toNat ≤ Config.fbBytes ∧
  s.gen.dcnt.toNat ≤ 7 ∧ s.gen.crc.toNat < 2 ^ 24 ∧ s.gen.d.toNat < 2 ^ s.gen.dcnt.toNat ∧
  Reasm.wf s.asm ∧ Status.wf s.status

/-- No error has been recorded since the last CLRSTAT or reset: STATUS[7:4] = 0, the premise 60_exceptions R236 names
(a recorded mismatch counts, since its bit is among the four). -/
abbrev noErrorRecorded (s : State) : Prop :=
  s.status.flag .truncS = false ∧ s.status.flag .invS = false ∧ s.status.flag .illS = false ∧
  s.status.flag .mismatchS = false

/-! ### Parts of the state -/

/-- The parts of the state a command's own rule may write, besides STATUS, ERRCMD and CSEQ. -/
inductive Part where
  | fb
  | flen
  | gen
  | crcRx
  | sums
  | flRx
  | res
  | asm
  /-- The host's pending operations and the replies it has received. -/
  | host
deriving DecidableEq, Repr

/-- The two states share a part; of FB, every byte reads the same. -/
def keeps (p : Part) (s t : State) : Prop :=
  match p with
  | .fb => ∀ a, t.fb.read a = s.fb.read a
  | .flen => t.flen = s.flen
  | .gen => t.gen = s.gen
  | .crcRx => t.crcRx = s.crcRx
  | .sums => t.sums = s.sums
  | .flRx => t.flRx = s.flRx
  | .res => t.res = s.res
  | .asm => t.asm = s.asm
  | .host => t.port = s.port ∧ t.replies = s.replies

/-- Every part is shared but those listed. -/
def changesOnly (ps : List Part) (s t : State) : Prop := ∀ p, p ∉ ps → keeps p s t

/-- Every bit of STATUS above ERR is shared, the reserved ones included, but the flags listed. -/
def flagsOnly (fs : List Flag) (s t : State) : Prop :=
  ∀ j, 3 ≤ j → (∀ f ∈ fs, f.bit ≠ j) → t.status.getLsbD j = s.status.getLsbD j

/-- From s to t one command succeeded, writing none but the flags listed: CSEQ counted it, ERR is NONE, ERRCMD is kept
(60_exceptions R224, 10_state R31, R32). -/
def succeeds (fs : List Flag) (s t : State) : Prop :=
  t.cSeq = s.cSeq + 1 ∧ t.status.err = 0 ∧ t.errCmd = s.errCmd ∧ flagsOnly fs s t

/-- The flags the error protocol may write for an error of the word w (60_exceptions R224). -/
def errorFlags (e : Err) (w : Word) : List Flag :=
  if producesRes w then [e.sticky, .resValid] else [e.sticky]

/-- From s to t the command word w raised the error e, its completed steps writing none but the flags listed: CSEQ
counted it, ERR, the sticky bit and ERRCMD record it, and RES_VALID is cleared if w was to produce RES (60_exceptions
R224). -/
def fails (e : Err) (w : Word) (fs : List Flag) (s t : State) : Prop :=
  t.cSeq = s.cSeq + 1 ∧ t.status.err = e.code ∧ t.status.flag e.sticky = true ∧ t.errCmd = w ∧
  (producesRes w = true → t.status.flag .resValid = false) ∧ flagsOnly (errorFlags e w ++ fs) s t

end Sys2Proof.Machine
end

