-- ==== Sys2Proof/Certificates/Slice0/Obligations.lean ====
section
/-!
DEFINITION. The statements for the provers. Each says which rule of spec/ it formalises. `succeeds`, `fails`,
`changesOnly` and `flagsOnly` (Safety) say what a command leaves as it was; a byte of FB is read by `Memory.read`, and
what a command gets from an unwritten byte is a free value, so every statement holds whatever that value is.
-/

open Sys2Proof Sys2Proof.Machine

/-! ### Encoding -/

/-- The twelve words of 30_encoding R99 decode to the commands written beside them. -/
def Obligations.SpecWordsDecode : Prop :=
  decode 0x0000000000000000 = .ok .nop ∧
  decode 0x0101000000000053 = .ok (.fbw1 0 0x53) ∧
  decode 0x0103000010B56201 = .ok (.fbw3 0x10 0xB56201) ∧
  decode 0x0200000020000000 = .ok (.setlen 32) ∧
  decode 0x22060000000000E2 = .ok (.crcRun 6 0 226) ∧
  decode 0x23000000E2000000 = .ok (.crcCheck 226) ∧
  decode 0x2108000000000031 = .ok (.crcFeed8 0x31) ∧
  decode 0x1000000008000006 = .ok (.extBe .unsigned .fb 8 6) ∧
  decode 0x100B000004001503 = .ok (.extLe .signed .fb .b4 4 3 21) ∧
  decode 0x100A000006000020 = .ok (.extLe .unsigned .fb .b4 6 32 0) ∧
  decode 0x410A00000C001208 = .ok (.raAppLe .fb .b4 12 8 18) ∧
  decode 0x4301000000000000 = .ok (.raGet .signed)

/-- Decoding the word of a well-formed command gives the command back: no operand bit is dropped (30_encoding R82 to
R94). -/
def Obligations.DecodeOfEncode : Prop := ∀ i : Instr, i.wf = true → decode (encode i) = .ok i

/-- Every word the decoder accepts is the word of a well-formed command, bit for bit: each word has one meaning, and the
word an error records is the word the host wrote (30_encoding R95, 10_state R32). -/
def Obligations.EncodeOfDecode : Prop := ∀ (w : Word) (i : Instr), decode w = .ok i → i.wf = true ∧ encode i = w

/-- The decoder, written from the format rules, agrees with the mask and match rows of opcode_table.json: a word it
accepts belongs to exactly one row, the command's, and a word it rejects belongs to none (30_encoding R95). -/
def Obligations.DecoderAgreesWithOpcodeTable : Prop :=
  (∀ (w : Word) (i : Instr), decode w = .ok i →
    ∃ r, opcodeTable.filter (fun r => r.accepts w) = [r] ∧ r.mnemonic = i.mnemonic) ∧
  (∀ (w : Word) (e : Illegal), decode w = .error e → opcodeTable.filter (fun r => r.accepts w) = [])

/-! ### The port, reset, and the whole machine -/

/-- A step runs the command that the host's oldest word decodes to, in the state without that word; with nothing
pending the block waits. The waiting step is the model's choice (log entry 3). -/
def Obligations.StepRunsOldestCommand : Prop :=
  (∀ (s : State) (w : Word) (rest : List HostOp) (i : Instr),
    s.port = .writeCmd w :: rest → decode w = .ok i → step s = exec i (s.setPort rest)) ∧
  (∀ s : State, s.port = [] → step s = .next s)

/-- A word that is no command raises ILLEGAL_COMMAND and has no other effect; if its OP is EXT's or RA_GET's it also
clears RES_VALID (60_exceptions R223, R224, 30_encoding R95). -/
def Obligations.IllegalWordIsRecorded : Prop :=
  ∀ (s : State) (w : Word) (rest : List HostOp) (e : Illegal),
    s.port = .writeCmd w :: rest → decode w = .error e →
    ∃ t, step s = .next t ∧ fails .illegalCommand w [] (s.setPort rest) t ∧ changesOnly [] (s.setPort rest) t ∧
      (opField w = 0x10 ∨ opField w = 0x43 → t.status.flag .resValid = false)

/-- A register read gives the host the register's value and changes no state of the block, and two reads with no command
between them return the same value (10_state R35). -/
def Obligations.RegisterReadHasNoSideEffect : Prop :=
  (∀ (s : State) (n : BitVec 8) (rest : List HostOp), s.port = .readReg n :: rest →
    ∃ t, step s = .next t ∧ t.replies = readReg n s :: s.replies ∧ t = (s.setPort rest).setReplies t.replies) ∧
  (∀ (s : State) (n : BitVec 8) (rest : List HostOp), s.port = .readReg n :: .readReg n :: rest →
    ∃ t u, step s = .next t ∧ step t = .next u ∧ u.replies = readReg n s :: readReg n s :: s.replies)

/-- The host register map, each register as a number with every unlisted bit 0 (10_state R21), and the reserved numbers,
which read 0 (R34). -/
def Obligations.RegisterMapReads : Prop :=
  ∀ s : State,
    readReg 0x00 s = s.status ∧
    (readReg 0x01 s).toNat = s.flen.toNat ∧
    (readReg 0x02 s).toNat = s.gen.crc.toNat + 2 ^ 24 * s.gen.d.toNat + 2 ^ 32 * s.gen.dcnt.toNat ∧
    (readReg 0x03 s).toNat = s.crcRx.toNat ∧
    (readReg 0x04 s).toNat = s.sums.ckA.toNat + 2 ^ 8 * s.sums.ckB.toNat ∧
    (readReg 0x05 s).toNat = s.flRx.toNat ∧
    readReg 0x06 s = s.res ∧
    (readReg 0x07 s).toNat = s.asm.ra.toNat % 2 ^ 64 ∧
    (readReg 0x08 s).toNat = s.asm.ra.toNat / 2 ^ 64 ∧
    (readReg 0x09 s).toNat = s.asm.rl.toNat ∧
    (readReg 0x0A s).toNat = s.cSeq.toNat ∧
    readReg 0x0B s = s.errCmd ∧
    ∀ n : BitVec 8, 0x0C ≤ n.toNat → readReg n s = 0

/-- Reset, from any state, sets every register to its reset value and marks every FB byte unwritten (70_reset_and_hazards
R250, 10_state R39); what the host still has to send stays. -/
def Obligations.ResetSetsEveryRegister : Prop :=
  ∀ (s : State) (rest : List HostOp), s.port = .reset :: rest →
    ∃ t, step s = .next t ∧ (∀ a, t.fb.read a = none) ∧ t.flen = 0 ∧ t.gen.crc = 0 ∧ t.gen.d = 0 ∧ t.gen.dcnt = 0 ∧
      t.crcRx = 0 ∧ t.sums.ckA = 0 ∧ t.sums.ckB = 0 ∧ t.flRx = 0 ∧ t.res = 0 ∧ t.asm.ra = 0 ∧ t.asm.rl = 0 ∧
      t.status = 0 ∧ t.errCmd = 0 ∧ t.cSeq = 0 ∧ t.port = rest ∧ t.replies = s.replies

/-- The invariant holds after reset (10_state R39, R40). -/
def Obligations.ResetStateMeetsInvariant : Prop := Invariant State.reset

/-- Every step keeps the invariant, from every state that meets it: the bounds of FLEN, DCNT, CRC, RL and RA, the OK flags
under their DONE flags (10_state R40), the reserved bits of STATUS (R22), the canonical form of FB (20_memory R60), and
D holding unfolded bits only (42_crc24q R158). -/
def Obligations.StepKeepsInvariant : Prop :=
  ∀ s t : State, Invariant s → step s = .next t → Invariant t

/-- CSEQ counts every command word the block executes, legal or not, failing or not, modulo 2^32 (10_state R31). -/
def Obligations.EveryCommandWordIsCounted : Prop :=
  ∀ (s : State) (w : Word) (rest : List HostOp), s.port = .writeCmd w :: rest →
    ∃ t, step s = .next t ∧ t.port = rest ∧ t.cSeq.toNat = (s.cSeq.toNat + 1) % 2 ^ 32

/-- A run of command words ends after one step a word, with every word executed and counted (70_reset_and_hazards R256,
R257, 10_state R31). -/
def Obligations.RunOfWordsCompletes : Prop :=
  ∀ (ws : List Word) (s : State), s.port = ws.map .writeCmd →
    ∃ t : State, Host.Core.run core ws.length s = .next t ∧ t.port = [] ∧
      t.cSeq.toNat = (s.cSeq.toNat + ws.length) % 2 ^ 32

/-- No state stops the machine: every word, register read and reset has a next state (60_exceptions R232, R236). -/
def Obligations.StepNeverStops : Prop := ∀ s : State, ∃ t, step s = .next t

/-- ERRCMD holds the word of the most recent command that raised an error, with the error's code in ERR, its sticky bit
set, and RES_VALID cleared if the word was EXT or RA_GET; a successful command leaves ERRCMD unchanged and ERR at NONE
(10_state R32, 60_exceptions R224). -/
def Obligations.ErrorWordIsSaved : Prop :=
  ∀ (s : State) (w : Word) (rest : List HostOp), s.port = .writeCmd w :: rest →
    ∃ t, step s = .next t ∧
      ((t.status.err = 0 ∧ t.errCmd = s.errCmd ∧ ∃ i, decode w = .ok i) ∨
        ∃ e : Err, t.status.err = e.code ∧ t.status.flag e.sticky = true ∧ t.errCmd = w ∧
          (opField w = 0x10 ∨ opField w = 0x43 → t.status.flag .resValid = false))

/-- CLRSTAT is the only command that lowers a sticky bit, so if STATUS[7:4] is 0 after any other command, it was 0 before
and that command raised no error (40_control R113, 60_exceptions R236). -/
def Obligations.OnlyClrstatLowersStickyBits : Prop :=
  ∀ (i : Instr) (s t : State), i ≠ .clrstat → exec i s = .next t →
    (∀ f ∈ [Flag.truncS, Flag.invS, Flag.illS, Flag.mismatchS], s.status.flag f = true → t.status.flag f = true) ∧
    (noErrorRecorded t → noErrorRecorded s ∧ t.status.err = 0)

/-- Every command but CRC_SBAS and FL_UBX is all-or-nothing: when it raises an error it writes nothing but what the error
protocol writes (60_exceptions R224, R226). -/
def Obligations.FailedPrimitiveCommandWritesNothing : Prop :=
  ∀ (i : Instr) (s t : State), i ≠ .crcSbas → i ≠ .flUbx → exec i s = .next t → t.status.err ≠ 0 →
    changesOnly [] s t ∧ ∃ e : Err, fails e (encode i) [] s t

/-- Errors recorded earlier do not affect a command: ERR, the sticky error bits and ERRCMD may differ, and the command
still does the same to every other part of the state and raises the same error or none (60_exceptions R232, 41_bitfield
R136). -/
def Obligations.EarlierErrorsDoNotMatter : Prop :=
  ∀ (i : Instr) (s : State) (st : Status) (c : Word), (∀ j, 7 ≤ j → st.getLsbD j = s.status.getLsbD j) →
    ∃ t t', exec i s = .next t ∧ exec i ((s.setStatus st).setErrCmd c) = .next t' ∧
      t'.status.err = t.status.err ∧ (∀ j, 7 ≤ j → t'.status.getLsbD j = t.status.getLsbD j) ∧
      changesOnly [] t t' ∧ (t.status.err ≠ 0 → t'.errCmd = t.errCmd)

/-- Bytes at addresses FLEN and above are reached by no command: two states that differ in such bytes only go to states
that differ in FB only, and there again in no byte below FLEN (20_memory R61, R62). -/
def Obligations.BytesBeyondFrameAreNotRead : Prop :=
  ∀ (i : Instr) (s : State) (m : Memory), (∀ a < s.flen.toNat, m.read a = s.fb.read a) →
    ∃ t m', exec i s = .next t ∧ exec i (s.setFb m) = .next (t.setFb m') ∧
      ∀ a < s.flen.toNat, m'.read a = t.fb.read a

/-- The opcodes of the commands that may write each part of the state (10_state R24 to R30, 20_memory R64). -/
def Sys2Proof.Machine.writers (p : Part) : List Nat :=
  match p with
  | .fb => [0x01]
  | .flen => [0x02]
  | .gen => [0x20, 0x21, 0x22, 0x24]
  | .crcRx => [0x23, 0x24]
  | .sums => [0x30, 0x31, 0x32, 0x34]
  | .flRx => [0x33, 0x34]
  | .res => [0x10, 0x43]
  | .asm => [0x40, 0x41, 0x42]
  | .host => []

/-- The opcodes of the commands that may write each check and result flag of STATUS (10_state R22). -/
def Sys2Proof.Machine.flagWriters : List (Flag × List Nat) :=
  [(.mismatchS, [0x03, 0x23, 0x24, 0x33, 0x34]), (.crcDone, [0x20, 0x21, 0x22, 0x23, 0x24]),
    (.crcOk, [0x20, 0x21, 0x22, 0x23, 0x24]), (.flDone, [0x30, 0x31, 0x32, 0x33, 0x34]),
    (.flOk, [0x30, 0x31, 0x32, 0x33, 0x34]), (.resValid, [0x10, 0x43]), (.resSigned, [0x10, 0x43])]

/-- Each register, the frame buffer and each check or result flag is written by no command but the ones the spec names for
it, and no command writes a reserved bit of STATUS (10_state R22, R36, 20_memory R64). -/
def Obligations.OnlyNamedCommandsWriteState : Prop :=
  ∀ (i : Instr) (s t : State), i.wf = true → exec i s = .next t →
    (∀ p, i.opcode ∉ writers p → keeps p s t) ∧
    (∀ fw ∈ flagWriters, i.opcode ∉ fw.2 → t.status.flag fw.1 = s.status.flag fw.1) ∧
    (∀ j, j = 3 ∨ 14 ≤ j → t.status.getLsbD j = s.status.getLsbD j)

/-! ### Frame-buffer and control commands -/

/-- NOP does nothing but the common protocol: ERR is NONE, CSEQ counts it, everything else stays (40_control R114). -/
def Obligations.NopRunsProtocolOnly : Prop :=
  ∀ s : State, ∃ t, exec .nop s = .next t ∧ succeeds [] s t ∧ changesOnly [] s t

/-- CLRSTAT clears the four sticky bits, leaves every other flag and ERRCMD, and ends with ERR = NONE (40_control R113). -/
def Obligations.ClrstatClearsStickyBits : Prop :=
  ∀ s : State, ∃ t, exec .clrstat s = .next t ∧
    t.status.flag .truncS = false ∧ t.status.flag .invS = false ∧ t.status.flag .illS = false ∧
    t.status.flag .mismatchS = false ∧
    succeeds [.truncS, .invS, .illS, .mismatchS] s t ∧ changesOnly [] s t

/-- What FBW with these data bytes does: all of them, from `addr` on, or nothing and ILLEGAL_COMMAND. -/
def Sys2Proof.Machine.fbwEffect (i : Instr) (addr : Nat) (bytes : List Byte) (s : State) : Prop :=
  (addr + bytes.length ≤ Config.fbBytes →
    ∃ t, exec i s = .next t ∧ (∀ k, k < bytes.length → t.fb.read (addr + k) = bytes[k]?) ∧
      (∀ a, a < addr ∨ addr + bytes.length ≤ a → t.fb.read a = s.fb.read a) ∧
      succeeds [] s t ∧ changesOnly [.fb] s t) ∧
  (Config.fbBytes < addr + bytes.length →
    ∃ t, exec i s = .next t ∧ fails .illegalCommand (encode i) [] s t ∧ changesOnly [] s t)

/-- FBW writes its 1, 2 or 3 bytes, most significant data byte to the lowest address, and no other byte; a write past
the last FB address raises ILLEGAL_COMMAND and writes no byte, not even those that fit (40_control R111). -/
def Obligations.FbwWritesItsBytesOrNone : Prop :=
  ∀ (addr : Nat) (d1 : BitVec 8) (d2 : BitVec 16) (d3 : BitVec 24) (s : State),
    fbwEffect (.fbw1 addr d1) addr [d1] s ∧
    fbwEffect (.fbw2 addr d2) addr [d2.extractLsb' 8 8, d2.extractLsb' 0 8] s ∧
    fbwEffect (.fbw3 addr d3) addr [d3.extractLsb' 16 8, d3.extractLsb' 8 8, d3.extractLsb' 0 8] s

/-- SETLEN declares the frame length, and a length above FB_BYTES raises ILLEGAL_COMMAND and leaves FLEN; it clears no
checksum flag and no result (40_control R112). -/
def Obligations.SetlenDeclaresLength : Prop :=
  ∀ (len : Nat) (s : State),
    (len ≤ Config.fbBytes →
      ∃ t, exec (.setlen len) s = .next t ∧ t.flen.toNat = len ∧ succeeds [] s t ∧ changesOnly [.flen] s t) ∧
    (Config.fbBytes < len →
      ∃ t, exec (.setlen len) s = .next t ∧ fails .illegalCommand (encode (.setlen len)) [] s t ∧ changesOnly [] s t)

/-! ### Extractor -/

/-- EXT, big-endian: RES holds the W stream bits from A on, the first of them most significant, and above them 0 or, in
the signed form, copies of the first; RES_VALID is set and RES_SIGNED is S (41_bitfield R131, R134, R135). -/
def Obligations.ExtBigEndianReadsField : Prop :=
  ∀ (sg : Signedness) (src : Source) (off w : Nat) (s : State),
    1 ≤ w → w ≤ 64 → off + w ≤ 8 * s.bufferLen src →
    ∃ t, exec (.extBe sg src off w) s = .next t ∧
      (∀ j < 64, t.res.getLsbD j =
        if j < w then streamBit (s.buffer src) (off + (w - 1 - j))
        else (sg.isSigned && streamBit (s.buffer src) off)) ∧
      t.status.flag .resValid = true ∧ t.status.flag .resSigned = sg.isSigned ∧
      succeeds [.resValid, .resSigned] s t ∧ changesOnly [.res] s t

/-- EXT, little-endian: container bit k is bit k mod 8 of the byte k div 8 above the container's address, and RES holds
the W container bits below position P from the top, widened as in the big-endian form (41_bitfield R132, R134, R135). -/
def Obligations.ExtLittleEndianReadsField : Prop :=
  ∀ (sg : Signedness) (src : Source) (nc : Container) (addr w p : Nat) (s : State),
    1 ≤ w → w ≤ 64 → p + w ≤ 8 * nc.bytes → addr + nc.bytes ≤ s.bufferLen src →
    ∃ t, exec (.extLe sg src nc addr w p) s = .next t ∧
      (∀ j < 64, ∀ k, k = 8 * nc.bytes - p - w + (if j < w then j else w - 1) →
        t.res.getLsbD j =
          ((decide (j < w) || sg.isSigned) && (s.buffer src (addr + k / 8)).getLsbD (k % 8))) ∧
      t.status.flag .resValid = true ∧ t.status.flag .resSigned = sg.isSigned ∧
      succeeds [.resValid, .resSigned] s t ∧ changesOnly [.res] s t

/-- The command raises the error, leaves RES and every other part of the state, and leaves RES_VALID 0. -/
def Sys2Proof.Machine.resultRefused (e : Err) (i : Instr) (s : State) : Prop :=
  ∃ t, exec i s = .next t ∧ fails e (encode i) [] s t ∧ changesOnly [] s t ∧ t.status.flag .resValid = false

/-- EXT's errors, in their order: a width of 0 or above 64 is INVALID_FIELD_SPEC, then a field past its container, then a
field or a container past the source buffer is TRUNCATED; RES is unchanged and RES_VALID is cleared (41_bitfield R133,
R134, 60_exceptions R225). -/
def Obligations.ExtErrorsInOrder : Prop :=
  (∀ (sg : Signedness) (src : Source) (off w : Nat) (s : State), (Instr.extBe sg src off w).wf = true →
    (w = 0 ∨ 64 < w → resultRefused .invalidFieldSpec (.extBe sg src off w) s) ∧
    (1 ≤ w → w ≤ 64 → 8 * s.bufferLen src < off + w → resultRefused .truncated (.extBe sg src off w) s)) ∧
  (∀ (sg : Signedness) (src : Source) (nc : Container) (addr w p : Nat) (s : State),
    (Instr.extLe sg src nc addr w p).wf = true →
    (w = 0 ∨ 64 < w ∨ 8 * nc.bytes < p + w →
      resultRefused .invalidFieldSpec (.extLe sg src nc addr w p) s) ∧
    (1 ≤ w → w ≤ 64 → p + w ≤ 8 * nc.bytes → s.bufferLen src < addr + nc.bytes →
      resultRefused .truncated (.extLe sg src nc addr w p) s))

/-- The EXT that reads a field at a place. -/
def Sys2Proof.Machine.extAt (sg : Signedness) (src : Source) (place : FieldAt) (w : Nat) : Instr :=
  match place with
  | .be off => .extBe sg src off w
  | .le nc addr p => .extLe sg src nc addr w p

/-- The sign-extension law: unsigned, RES is the raw field; signed, RES is the raw field if its top bit is 0 and the raw
field minus 2^W, modulo 2^64, if it is 1 (41_bitfield R135). -/
def Obligations.SignExtensionLaw : Prop :=
  ∀ (src : Source) (place : FieldAt) (w raw : Nat) (s : State), fieldRead s src place w = .ok raw →
    ∃ tu ts, exec (extAt .unsigned src place w) s = .next tu ∧ exec (extAt .signed src place w) s = .next ts ∧
      tu.res.toNat = raw ∧
      (raw.testBit (w - 1) = false → ts.res.toNat = raw) ∧
      (raw.testBit (w - 1) = true → ts.res.toNat + 2 ^ w = raw + 2 ^ 64)

/-- A container of one byte is read as the big-endian field at stream bit 8A + P, with the same result and the same error
in the same cases (41_bitfield R136 item 7). -/
def Obligations.ByteContainerIsBigEndianField : Prop :=
  ∀ (sg : Signedness) (src : Source) (addr w p : Nat) (s : State), 8 * addr + p < 2 ^ 24 → p + w ≤ 8 →
    ∃ t t', exec (.extLe sg src .b1 addr w p) s = .next t ∧ exec (.extBe sg src (8 * addr + p) w) s = .next t' ∧
      t'.status = t.status ∧ t'.cSeq = t.cSeq ∧ changesOnly [] t t'

/-- A field labelled "bits [hi:lo]", bit 0 least significant, of a little-endian word or of a byte of a big-endian stream
is read by the EXT of rule R137 (41_bitfield R137). -/
def Obligations.LabelledFieldsAreRead : Prop :=
  (∀ (sg : Signedness) (src : Source) (nc : Container) (a hi lo : Nat) (s : State),
    lo ≤ hi → hi < 8 * nc.bytes → a + nc.bytes ≤ s.bufferLen src →
    ∃ t, exec (extOfLeLabel sg src nc a hi lo) s = .next t ∧ t.status.err = 0 ∧
      t.res = widen sg (hi - lo + 1) (bitField hi lo (loadLE (s.buffer src) a nc.bytes))) ∧
  (∀ (sg : Signedness) (src : Source) (b hi lo : Nat) (s : State), lo ≤ hi → hi < 8 → b < s.bufferLen src →
    ∃ t, exec (extOfBeLabel sg src b hi lo) s = .next t ∧ t.status.err = 0 ∧
      t.res = widen sg (hi - lo + 1) (bitField hi lo (s.buffer src b).toNat))

/-! ### CRC24Q generator -/

/-- CRC_INIT clears CRC, D, DCNT, CRC_DONE and CRC_OK, and leaves CRC_RX and MISMATCH_S (42_crc24q R157). -/
def Obligations.CrcInitClearsGenerator : Prop :=
  ∀ s : State, ∃ t, exec .crcInit s = .next t ∧ t.gen.crc = 0 ∧ t.gen.d = 0 ∧ t.gen.dcnt = 0 ∧
    t.status.flag .crcDone = false ∧ t.status.flag .crcOk = false ∧
    succeeds [.crcDone, .crcOk] s t ∧ changesOnly [.gen] s t

/-- Fold(c, d) as rule R152 writes it, over the numbers. -/
def Sys2Proof.Machine.foldNumber (c : BitVec 24) (d : BitVec 8) : Nat :=
  ((c.toNat * 2 ^ 8) ^^^ (lut.getD ((c.toNat / 2 ^ 16) ^^^ d.toNat) 0).toNat) % 2 ^ 24

/-- CrcBit shifts the bit into D, and at the eighth bit folds D into CRC and clears D and DCNT (42_crc24q R151, R152). -/
def Obligations.CrcBitShiftsAndFolds : Prop :=
  ∀ (g : CrcGen) (b : Bool),
    (g.dcnt.toNat < 7 → (crcBit g b).crc = g.crc ∧
      (crcBit g b).d.toNat = (2 * g.d.toNat + b.toNat) % 2 ^ 8 ∧ (crcBit g b).dcnt.toNat = g.dcnt.toNat + 1) ∧
    (g.dcnt.toNat = 7 →
      (crcBit g b).crc.toNat = foldNumber g.crc (BitVec.ofNat 8 (2 * g.d.toNat + b.toNat)) ∧
      (crcBit g b).d = 0 ∧ (crcBit g b).dcnt = 0)

/-- The 256 entries of the lookup table of R154 are the ones the construction of R153 gives (42_crc24q R153, R154). -/
def Obligations.LookupTableFollowsConstruction : Prop :=
  lut.length = 256 ∧ ∀ i : BitVec 8, lutEntry i = lutConstruction i

/-- The lookup-table fold and the bit-serial fold are equal on every input, so feeding a bit gives the same generator
state under both constructions (42_crc24q R156). -/
def Obligations.FoldConstructionsAgree : Prop :=
  (∀ (c : BitVec 24) (d : BitVec 8), foldLut c d = foldSerial c d) ∧
  (∀ (g : CrcGen) (b : Bool), crcBitWith .lut g b = crcBitWith .bitwise g b)

/-- Feeding these bits: CRC, D and DCNT as CrcBit gives them in order, CRC_DONE and CRC_OK cleared, nothing else. -/
def Sys2Proof.Machine.feedEffect (i : Instr) (bits : List Bool) (s : State) : Prop :=
  ∃ t, exec i s = .next t ∧ t.gen = bits.foldl crcBit s.gen ∧
    t.status.flag .crcDone = false ∧ t.status.flag .crcOk = false ∧
    succeeds [.crcDone, .crcOk] s t ∧ changesOnly [.gen] s t

/-- CRC_FEED.1 to CRC_FEED.8 feed their K bits, the most significant first (42_crc24q R158). -/
def Obligations.CrcFeedFeedsItsBits : Prop :=
  ∀ (d1 : BitVec 1) (d2 : BitVec 2) (d3 : BitVec 3) (d4 : BitVec 4) (d5 : BitVec 5) (d6 : BitVec 6) (d7 : BitVec 7)
    (d8 : BitVec 8) (s : State),
    feedEffect (.crcFeed1 d1) [d1.getLsbD 0] s ∧
    feedEffect (.crcFeed2 d2) [d2.getLsbD 1, d2.getLsbD 0] s ∧
    feedEffect (.crcFeed3 d3) [d3.getLsbD 2, d3.getLsbD 1, d3.getLsbD 0] s ∧
    feedEffect (.crcFeed4 d4) ([3, 2, 1, 0].map d4.getLsbD) s ∧
    feedEffect (.crcFeed5 d5) ([4, 3, 2, 1, 0].map d5.getLsbD) s ∧
    feedEffect (.crcFeed6 d6) ([5, 4, 3, 2, 1, 0].map d6.getLsbD) s ∧
    feedEffect (.crcFeed7 d7) ([6, 5, 4, 3, 2, 1, 0].map d7.getLsbD) s ∧
    feedEffect (.crcFeed8 d8) ([7, 6, 5, 4, 3, 2, 1, 0].map d8.getLsbD) s

/-- CRC_RUN feeds PAD zero bits and then COUNT stream bits of the frame; a window past the frame raises TRUNCATED with no
bit fed, the pad bits included (42_crc24q R159). -/
def Obligations.CrcRunFeedsWindow : Prop :=
  ∀ (pad off count : Nat) (s : State),
    (off + count ≤ 8 * s.flen.toNat →
      feedEffect (.crcRun pad off count)
        (List.replicate pad false ++ (List.range count).map fun k => streamBit s.fbByte (off + k)) s) ∧
    (8 * s.flen.toNat < off + count →
      ∃ t, exec (.crcRun pad off count) s = .next t ∧
        fails .truncated (encode (.crcRun pad off count)) [] s t ∧ changesOnly [] s t)

/-- The trailer at stream bit `off` compared with the CRC of t: CRC_RX holds its 24 bits, CRC_DONE is set, CRC_OK says
whether they match, and MISMATCH_S is set if they do not and kept otherwise. -/
def Sys2Proof.Machine.crcCompared (off : Nat) (s t : State) : Prop :=
  (∀ j < 24, t.crcRx.getLsbD j = streamBit s.fbByte (off + (23 - j))) ∧
  t.status.flag .crcDone = true ∧ t.status.flag .crcOk = decide (t.crcRx = t.gen.crc) ∧
  t.status.flag .mismatchS = (s.status.flag .mismatchS || decide (t.crcRx ≠ t.gen.crc))

/-- CRC_CHECK compares CRC with the 24-bit big-endian trailer; a mismatch is no error. With bits unfolded it raises
INVALID_FIELD_SPEC, tested first, and with the trailer past the frame TRUNCATED, and then changes nothing of its own
(42_crc24q R160, R166, 60_exceptions R227). -/
def Obligations.CrcCheckComparesTrailer : Prop :=
  ∀ (off : Nat) (s : State),
    (s.gen.dcnt = 0 → off + 24 ≤ 8 * s.flen.toNat →
      ∃ t, exec (.crcCheck off) s = .next t ∧ crcCompared off s t ∧
        succeeds [.crcDone, .crcOk, .mismatchS] s t ∧ changesOnly [.crcRx] s t) ∧
    (s.gen.dcnt ≠ 0 →
      ∃ t, exec (.crcCheck off) s = .next t ∧ fails .invalidFieldSpec (encode (.crcCheck off)) [] s t ∧
        changesOnly [] s t) ∧
    (s.gen.dcnt = 0 → 8 * s.flen.toNat < off + 24 →
      ∃ t, exec (.crcCheck off) s = .next t ∧ fails .truncated (encode (.crcCheck off)) [] s t ∧ changesOnly [] s t)

/-- The generator after CRC_INIT and CRC_RUN.6 0, 226. -/
def Sys2Proof.Machine.sbasGen (s : State) : CrcGen :=
  (List.replicate 6 false ++ (List.range 226).map fun k => streamBit s.fbByte k).foldl crcBit ⟨0, 0, 0⟩

/-- CRC_SBAS on a frame of at least 32 bytes computes the CRC of the 6 pad bits and the 226 frame bits, ends with DCNT = 0,
and compares it with the trailer at stream bits 226 to 249 (42_crc24q R161, R163). -/
def Obligations.CrcSbasVerifiesFrame : Prop :=
  ∀ s : State, 32 ≤ s.flen.toNat →
    ∃ t, exec .crcSbas s = .next t ∧ t.gen = sbasGen s ∧ t.gen.dcnt = 0 ∧ crcCompared 226 s t ∧
      succeeds [.crcDone, .crcOk, .mismatchS] s t ∧ changesOnly [.gen, .crcRx] s t

/-- CRC_SBAS on a shorter frame raises TRUNCATED and keeps its completed steps: below 29 bytes the generator is cleared,
and from 29 to 31 bytes CRC holds the computed CRC; CRC_DONE and CRC_OK are 0 and CRC_RX is unchanged (42_crc24q R161,
60_exceptions R226). -/
def Obligations.CrcSbasKeepsCompletedSteps : Prop :=
  ∀ s : State, s.flen.toNat < 32 →
    ∃ t, exec .crcSbas s = .next t ∧ t.gen = (if s.flen.toNat < 29 then ⟨0, 0, 0⟩ else sbasGen s) ∧
      t.status.flag .crcDone = false ∧ t.status.flag .crcOk = false ∧
      fails .truncated 0x2400000000000000 [.crcDone, .crcOk] s t ∧ changesOnly [.gen] s t

/-- On a written frame of at least 32 bytes CRC_SBAS leaves what CRC_INIT, CRC_RUN.6 0, 226 and CRC_CHECK 226 leave in
sequence, but for CSEQ, which counts one command and not three (42_crc24q R161). -/
def Obligations.CrcSbasIsItsSequence : Prop :=
  ∀ s : State, 32 ≤ s.flen.toNat → (∀ a < 32, s.fb.read a ≠ none) →
    ∃ s1 s2 s3 t, exec .crcInit s = .next s1 ∧ exec (.crcRun 6 0 226) s1 = .next s2 ∧
      exec (.crcCheck 226) s2 = .next s3 ∧ exec .crcSbas s = .next t ∧
      t.status = s3.status ∧ t.errCmd = s3.errCmd ∧ changesOnly [] s3 t

/-- The padding law: from CRC = 0 and DCNT = 0, zero bits leave CRC at zero; pad bits that complete the bytes of a message do
not change the result, which is the plain MSB-first serial CRC-24Q of the message bits; and so CRC_SBAS's CRC is that of the
226 message bits (42_crc24q R164). -/
def Obligations.PaddingLaw : Prop :=
  (∀ (n : Nat) (d : BitVec 8), ((List.replicate n false).foldl crcBit ⟨0, d, 0⟩).crc = 0) ∧
  (∀ (pad : Nat) (message : List Bool), (pad + message.length) % 8 = 0 →
    ((List.replicate pad false ++ message).foldl crcBit ⟨0, 0, 0⟩).crc = message.foldl serialStep 0) ∧
  (∀ s : State, (sbasGen s).crc = ((List.range 226).map fun k => streamBit s.fbByte k).foldl serialStep 0)

/-- The residue law: a message of whole bytes followed by its own CRC's 24 bits, most significant first, has CRC 0
(42_crc24q R165). -/
def Obligations.ResidueLaw : Prop :=
  ∀ (message : List Bool) (g : CrcGen), message.length % 8 = 0 → g = message.foldl crcBit ⟨0, 0, 0⟩ →
    (((List.range 24).map fun k => g.crc.getLsbD (23 - k)).foldl crcBit g).crc = 0

/-- On a written SBAS frame whose trailer CRC_SBAS finds correct, CRC_INIT and CRC_RUN.6 0, 250 leave CRC = 0 and DCNT = 0
(42_crc24q R165, R163). -/
def Obligations.CorrectSbasFrameHasZeroResidue : Prop :=
  ∀ s t : State, 32 ≤ s.flen.toNat → (∀ a < 32, s.fb.read a ≠ none) → exec .crcSbas s = .next t →
    t.status.flag .crcOk = true →
    ∃ s1 s2, exec .crcInit s = .next s1 ∧ exec (.crcRun 6 0 250) s1 = .next s2 ∧ s2.gen.crc = 0 ∧ s2.gen.dcnt = 0

/-- The source contract crc24q(frame_bytes[0..29]): the CRC after CRC_INIT and CRC_RUN.6 0, 226 depends on nothing but the
written bytes 0 to 27 and the top two bits of byte 28, whatever the rest of the two states (42_crc24q R162). -/
def Obligations.CrcDependsOnMessageBitsOnly : Prop :=
  ∀ s s' : State, 29 ≤ s.flen.toNat → 29 ≤ s'.flen.toNat →
    (∀ a < 28, s.fb.read a ≠ none ∧ s.fb.read a = s'.fb.read a) →
    (∀ b b', s.fb.read 28 = some b → s'.fb.read 28 = some b' → b.toNat / 64 = b'.toNat / 64) →
    s.fb.read 28 ≠ none → s'.fb.read 28 ≠ none →
    ∃ s1 s2 s1' s2', exec .crcInit s = .next s1 ∧ exec (.crcRun 6 0 226) s1 = .next s2 ∧
      exec .crcInit s' = .next s1' ∧ exec (.crcRun 6 0 226) s1' = .next s2' ∧
      s2.gen = s2'.gen ∧ s2.gen.dcnt = 0 ∧ s2.status.err = 0 ∧ s2'.status.err = 0

/-! ### Fletcher-8 engine -/

/-- FL_INIT clears both sums; FL_BYTE adds the byte to CK_A and the updated CK_A to CK_B, modulo 256; both clear FL_DONE
and FL_OK and write nothing else (43_fletcher8 R180, R181, R182). -/
def Obligations.FlInitAndFlByteUpdateSums : Prop :=
  ∀ (b : BitVec 8) (s : State),
    (∃ t, exec .flInit s = .next t ∧ t.sums.ckA = 0 ∧ t.sums.ckB = 0 ∧
      t.status.flag .flDone = false ∧ t.status.flag .flOk = false ∧
      succeeds [.flDone, .flOk] s t ∧ changesOnly [.sums] s t) ∧
    (∃ t, exec (.flByte b) s = .next t ∧ t.sums.ckA.toNat = (s.sums.ckA.toNat + b.toNat) % 256 ∧
      t.sums.ckB.toNat = (s.sums.ckB.toNat + t.sums.ckA.toNat) % 256 ∧
      t.status.flag .flDone = false ∧ t.status.flag .flOk = false ∧
      succeeds [.flDone, .flOk] s t ∧ changesOnly [.sums] s t)

/-- FL_RUN feeds COUNT frame bytes from OFF on; a region past the frame raises TRUNCATED with no byte fed (43_fletcher8
R183). -/
def Obligations.FlRunFeedsRegion : Prop :=
  ∀ (off count : Nat) (s : State),
    (off + count ≤ s.flen.toNat →
      ∃ t, exec (.flRun off count) s = .next t ∧
        t.sums = ((List.range count).map fun i => s.fbByte (off + i)).foldl flByte s.sums ∧
        t.status.flag .flDone = false ∧ t.status.flag .flOk = false ∧
        succeeds [.flDone, .flOk] s t ∧ changesOnly [.sums] s t) ∧
    (s.flen.toNat < off + count →
      ∃ t, exec (.flRun off count) s = .next t ∧ fails .truncated (encode (.flRun off count)) [] s t ∧
        changesOnly [] s t)

/-- The two trailer bytes at `off` compared with the sums of t: FL_RX is their little-endian value, FL_DONE is set, FL_OK
says whether both match, which is whether FL_RX is FLSTATE[15:0], and MISMATCH_S is set if not and kept otherwise. -/
def Sys2Proof.Machine.flCompared (off : Nat) (s t : State) : Prop :=
  t.flRx.toNat = (s.fbByte off).toNat + 2 ^ 8 * (s.fbByte (off + 1)).toNat ∧
  t.status.flag .flDone = true ∧
  t.status.flag .flOk = decide (s.fbByte off = t.sums.ckA ∧ s.fbByte (off + 1) = t.sums.ckB) ∧
  t.status.flag .flOk = decide (t.flRx.toNat = (readReg 0x04 t).toNat) ∧
  t.status.flag .mismatchS = (s.status.flag .mismatchS || !t.status.flag .flOk)

/-- FL_CHECK compares the sums with the little-endian trailer; a mismatch is no error, and a trailer past the frame raises
TRUNCATED and changes nothing of its own (43_fletcher8 R185). -/
def Obligations.FlCheckComparesTrailer : Prop :=
  ∀ (off : Nat) (s : State),
    (off + 2 ≤ s.flen.toNat →
      ∃ t, exec (.flCheck off) s = .next t ∧ flCompared off s t ∧
        succeeds [.flDone, .flOk, .mismatchS] s t ∧ changesOnly [.flRx] s t) ∧
    (s.flen.toNat < off + 2 →
      ∃ t, exec (.flCheck off) s = .next t ∧ fails .truncated (encode (.flCheck off)) [] s t ∧ changesOnly [] s t)

/-- The payload length of a UBX frame at FB[0], little-endian in bytes 4 and 5. -/
def Sys2Proof.Machine.payloadLength (s : State) : Nat := (s.fbByte 4).toNat + 2 ^ 8 * (s.fbByte 5).toNat

/-- The sums over the UBX region FB[2..5+len]. -/
def Sys2Proof.Machine.ubxSums (s : State) : FlSums :=
  ((List.range (4 + payloadLength s)).map fun i => s.fbByte (2 + i)).foldl flByte ⟨0, 0⟩

/-- FL_UBX on a whole UBX frame computes the sums from byte 2 through the end of the payload and compares them with the
two bytes after it (43_fletcher8 R186, R187). -/
def Obligations.FlUbxVerifiesFrame : Prop :=
  ∀ s : State, 6 ≤ s.flen.toNat → 8 + payloadLength s ≤ s.flen.toNat →
    ∃ t, exec .flUbx s = .next t ∧ t.sums = ubxSums s ∧ flCompared (6 + payloadLength s) s t ∧
      succeeds [.flDone, .flOk, .mismatchS] s t ∧ changesOnly [.sums, .flRx] s t

/-- FL_UBX on a short frame raises TRUNCATED and keeps its completed steps: below 6 bytes nothing has changed, with the
region past the frame the sums are zero, and with only the trailer past it the sums are computed and not compared
(43_fletcher8 R186, 60_exceptions R226). -/
def Obligations.FlUbxKeepsCompletedSteps : Prop :=
  ∀ s : State,
    (s.flen.toNat < 6 →
      ∃ t, exec .flUbx s = .next t ∧ fails .truncated 0x3400000000000000 [] s t ∧ changesOnly [] s t) ∧
    (6 ≤ s.flen.toNat → s.flen.toNat < 8 + payloadLength s →
      ∃ t, exec .flUbx s = .next t ∧
        t.sums = (if s.flen.toNat < 6 + payloadLength s then ⟨0, 0⟩ else ubxSums s) ∧
        t.status.flag .flDone = false ∧ t.status.flag .flOk = false ∧
        fails .truncated 0x3400000000000000 [.flDone, .flOk] s t ∧ changesOnly [.sums] s t)

/-- After bytes b1..bm from zero, CK_A is their sum and CK_B the sum of (m - i + 1)·bi, modulo 256, and rearranging the
bytes never changes CK_A (43_fletcher8 R188). -/
def Obligations.FletcherSumsOfRegion : Prop :=
  ∀ bytes : List Byte,
    (bytes.foldl flByte ⟨0, 0⟩).ckA.toNat = (bytes.map BitVec.toNat).sum % 256 ∧
    (bytes.foldl flByte ⟨0, 0⟩).ckB.toNat =
      ((List.range bytes.length).map fun i => (bytes.length - i) * (bytes.getD i 0).toNat).sum % 256 ∧
    ∀ bytes' : List Byte, bytes.Perm bytes' →
      (bytes'.foldl flByte ⟨0, 0⟩).ckA = (bytes.foldl flByte ⟨0, 0⟩).ckA

/-! ### Reassembly unit -/

/-- RA_CLR empties the accumulator and leaves RES and RES_VALID (44_reassembly R201). -/
def Obligations.RaClrEmptiesAccumulator : Prop :=
  ∀ s : State, ∃ t, exec .raClr s = .next t ∧ t.asm.ra = 0 ∧ t.asm.rl = 0 ∧ succeeds [] s t ∧ changesOnly [.asm] s t

/-- The RA_APP that appends a field at a place. -/
def Sys2Proof.Machine.appendAt (src : Source) (place : FieldAt) (w : Nat) : Instr :=
  match place with
  | .be off => .raAppBe src off w
  | .le nc addr p => .raAppLe src nc addr w p

/-- RA_APP appends a chunk that is read from its source buffer before the append: the chunk's bits come below the bits
already held, RL grows by W, and nothing else changes (44_reassembly R202, R203). -/
def Obligations.RaAppAppendsChunk : Prop :=
  ∀ (src : Source) (place : FieldAt) (w raw : Nat) (s : State),
    fieldRead s src place w = .ok raw → s.asm.rl.toNat + w ≤ 128 →
    ∃ t, exec (appendAt src place w) s = .next t ∧
      (∀ j < 128, t.asm.ra.getLsbD j = if j < w then raw.testBit j else s.asm.ra.getLsbD (j - w)) ∧
      t.asm.rl.toNat = s.asm.rl.toNat + w ∧ succeeds [] s t ∧ changesOnly [.asm] s t

/-- The field read that EXT and RA_APP share, in both forms: which fields are read, and their bits (41_bitfield R131, R132,
R133). -/
def Obligations.FieldReadAnswers : Prop :=
  (∀ (s : State) (src : Source) (off w : Nat),
    (w = 0 ∨ 64 < w → fieldRead s src (.be off) w = .error .invalidFieldSpec) ∧
    (1 ≤ w → w ≤ 64 → 8 * s.bufferLen src < off + w → fieldRead s src (.be off) w = .error .truncated) ∧
    (1 ≤ w → w ≤ 64 → off + w ≤ 8 * s.bufferLen src →
      ∃ raw, fieldRead s src (.be off) w = .ok raw ∧ raw < 2 ^ w ∧
        ∀ j < w, raw.testBit j = streamBit (s.buffer src) (off + (w - 1 - j)))) ∧
  (∀ (s : State) (src : Source) (nc : Container) (addr p w : Nat),
    (w = 0 ∨ 64 < w ∨ 8 * nc.bytes < p + w → fieldRead s src (.le nc addr p) w = .error .invalidFieldSpec) ∧
    (1 ≤ w → w ≤ 64 → p + w ≤ 8 * nc.bytes → s.bufferLen src < addr + nc.bytes →
      fieldRead s src (.le nc addr p) w = .error .truncated) ∧
    (1 ≤ w → w ≤ 64 → p + w ≤ 8 * nc.bytes → addr + nc.bytes ≤ s.bufferLen src →
      ∃ raw, fieldRead s src (.le nc addr p) w = .ok raw ∧ raw < 2 ^ w ∧
        ∀ j < w, ∀ k, k = 8 * nc.bytes - p - w + j →
          raw.testBit j = (s.buffer src (addr + k / 8)).getLsbD (k % 8)))

/-- RA_APP's errors: a bad width and an append past 128 bits are INVALID_FIELD_SPEC before any bounds test, and otherwise
the field read's own error is raised; RA and RL are unchanged (44_reassembly R203, 60_exceptions R225). -/
def Obligations.RaAppErrorsInOrder : Prop :=
  ∀ (src : Source) (place : FieldAt) (w : Nat) (s : State),
    (w = 0 ∨ 64 < w ∨ 128 < s.asm.rl.toNat + w →
      ∃ t, exec (appendAt src place w) s = .next t ∧
        fails .invalidFieldSpec (encode (appendAt src place w)) [] s t ∧ changesOnly [] s t) ∧
    (∀ e, 1 ≤ w → w ≤ 64 → s.asm.rl.toNat + w ≤ 128 → fieldRead s src place w = .error e →
      ∃ t, exec (appendAt src place w) s = .next t ∧ fails e (encode (appendAt src place w)) [] s t ∧
        changesOnly [] s t)

/-- RA_APPR appends the low W bits of RES when RES_VALID is 1, and raises INVALID_FIELD_SPEC for a bad width, an append past
128 bits, or RES_VALID = 0, leaving RA and RL (44_reassembly R204). -/
def Obligations.RaApprAppendsResult : Prop :=
  ∀ (w : Nat) (s : State),
    (1 ≤ w → w ≤ 64 → s.asm.rl.toNat + w ≤ 128 → s.status.flag .resValid = true →
      ∃ t, exec (.raAppr w) s = .next t ∧
        (∀ j < 128, t.asm.ra.getLsbD j = if j < w then s.res.getLsbD j else s.asm.ra.getLsbD (j - w)) ∧
        t.asm.rl.toNat = s.asm.rl.toNat + w ∧ succeeds [] s t ∧ changesOnly [.asm] s t) ∧
    (w = 0 ∨ 64 < w ∨ 128 < s.asm.rl.toNat + w ∨ s.status.flag .resValid = false →
      ∃ t, exec (.raAppr w) s = .next t ∧ fails .invalidFieldSpec (encode (.raAppr w)) [] s t ∧ changesOnly [] s t)

/-- RA_GET puts the RL bits of RA into RES, widened from RL bits, and does not consume them; with RL = 0 or above 64 it raises
INVALID_FIELD_SPEC, leaves RES and clears RES_VALID (44_reassembly R205). -/
def Obligations.RaGetReadsAccumulator : Prop :=
  ∀ (sg : Signedness) (s : State),
    (1 ≤ s.asm.rl.toNat → s.asm.rl.toNat ≤ 64 → Reasm.wf s.asm →
      ∃ t, exec (.raGet sg) s = .next t ∧
        (∀ j < 64, t.res.getLsbD j =
          if j < s.asm.rl.toNat then s.asm.ra.getLsbD j
          else (sg.isSigned && s.asm.ra.getLsbD (s.asm.rl.toNat - 1))) ∧
        t.status.flag .resValid = true ∧ t.status.flag .resSigned = sg.isSigned ∧
        succeeds [.resValid, .resSigned] s t ∧ changesOnly [.res] s t) ∧
    (s.asm.rl.toNat = 0 ∨ 64 < s.asm.rl.toNat → resultRefused .invalidFieldSpec (.raGet sg) s)

/-- RB is the left-aligned view of RA, 16 bytes long: stream bit k is the k-th bit held, counted from the first chunk's most
significant bit, and the bits after the RL valid ones are 0 (20_memory R63). -/
def Obligations.ReassemblyBufferIsLeftAligned : Prop :=
  ∀ s : State, s.bufferLen .rb = 16 ∧
    (Reasm.wf s.asm → ∀ k < 128, streamBit (s.buffer .rb) k =
      if k < s.asm.rl.toNat then s.asm.ra.getLsbD (s.asm.rl.toNat - 1 - k) else false)

/-- A chunk appended by RA_APP is read back from RB at the stream bit where it was appended: EXT from RB gives the value that
EXT from the chunk's own source gives (44_reassembly R203, R206). -/
def Obligations.AppendedChunkReadsBack : Prop :=
  ∀ (src : Source) (off w : Nat) (s : State),
    Reasm.wf s.asm → 1 ≤ w → w ≤ 64 → s.asm.rl.toNat + w ≤ 128 → off + w ≤ 8 * s.bufferLen src →
    ∃ t u v, exec (.raAppBe src off w) s = .next t ∧ exec (.extBe .unsigned .rb s.asm.rl.toNat w) t = .next u ∧
      exec (.extBe .unsigned src off w) s = .next v ∧ u.status.err = 0 ∧ v.status.err = 0 ∧ u.res = v.res
end

