-- ==== Sys2Proof/Laws/State.lean ====
section
/-!
SUPPORT. One lemma per field per update of State, so that no proof unfolds an update.
-/

namespace Sys2Proof.Machine

/-! `setFb` -/

@[simp] theorem State.setFb_fb (s : State) (v : Memory) : (s.setFb v).fb = v := rfl
@[simp] theorem State.setFb_flen (s : State) (v : Memory) : (s.setFb v).flen = s.flen := rfl
@[simp] theorem State.setFb_gen (s : State) (v : Memory) : (s.setFb v).gen = s.gen := rfl
@[simp] theorem State.setFb_crcRx (s : State) (v : Memory) : (s.setFb v).crcRx = s.crcRx := rfl
@[simp] theorem State.setFb_sums (s : State) (v : Memory) : (s.setFb v).sums = s.sums := rfl
@[simp] theorem State.setFb_flRx (s : State) (v : Memory) : (s.setFb v).flRx = s.flRx := rfl
@[simp] theorem State.setFb_res (s : State) (v : Memory) : (s.setFb v).res = s.res := rfl
@[simp] theorem State.setFb_asm (s : State) (v : Memory) : (s.setFb v).asm = s.asm := rfl
@[simp] theorem State.setFb_status (s : State) (v : Memory) : (s.setFb v).status = s.status := rfl
@[simp] theorem State.setFb_errCmd (s : State) (v : Memory) : (s.setFb v).errCmd = s.errCmd := rfl
@[simp] theorem State.setFb_cSeq (s : State) (v : Memory) : (s.setFb v).cSeq = s.cSeq := rfl
@[simp] theorem State.setFb_port (s : State) (v : Memory) : (s.setFb v).port = s.port := rfl
@[simp] theorem State.setFb_replies (s : State) (v : Memory) : (s.setFb v).replies = s.replies := rfl
@[simp] theorem State.setFb_draws (s : State) (v : Memory) : (s.setFb v).draws = s.draws := rfl

/-! `setFlen` -/

@[simp] theorem State.setFlen_fb (s : State) (v : BitVec 24) : (s.setFlen v).fb = s.fb := rfl
@[simp] theorem State.setFlen_flen (s : State) (v : BitVec 24) : (s.setFlen v).flen = v := rfl
@[simp] theorem State.setFlen_gen (s : State) (v : BitVec 24) : (s.setFlen v).gen = s.gen := rfl
@[simp] theorem State.setFlen_crcRx (s : State) (v : BitVec 24) : (s.setFlen v).crcRx = s.crcRx := rfl
@[simp] theorem State.setFlen_sums (s : State) (v : BitVec 24) : (s.setFlen v).sums = s.sums := rfl
@[simp] theorem State.setFlen_flRx (s : State) (v : BitVec 24) : (s.setFlen v).flRx = s.flRx := rfl
@[simp] theorem State.setFlen_res (s : State) (v : BitVec 24) : (s.setFlen v).res = s.res := rfl
@[simp] theorem State.setFlen_asm (s : State) (v : BitVec 24) : (s.setFlen v).asm = s.asm := rfl
@[simp] theorem State.setFlen_status (s : State) (v : BitVec 24) : (s.setFlen v).status = s.status := rfl
@[simp] theorem State.setFlen_errCmd (s : State) (v : BitVec 24) : (s.setFlen v).errCmd = s.errCmd := rfl
@[simp] theorem State.setFlen_cSeq (s : State) (v : BitVec 24) : (s.setFlen v).cSeq = s.cSeq := rfl
@[simp] theorem State.setFlen_port (s : State) (v : BitVec 24) : (s.setFlen v).port = s.port := rfl
@[simp] theorem State.setFlen_replies (s : State) (v : BitVec 24) : (s.setFlen v).replies = s.replies := rfl
@[simp] theorem State.setFlen_draws (s : State) (v : BitVec 24) : (s.setFlen v).draws = s.draws := rfl

/-! `setGen` -/

@[simp] theorem State.setGen_fb (s : State) (v : CrcGen) : (s.setGen v).fb = s.fb := rfl
@[simp] theorem State.setGen_flen (s : State) (v : CrcGen) : (s.setGen v).flen = s.flen := rfl
@[simp] theorem State.setGen_gen (s : State) (v : CrcGen) : (s.setGen v).gen = v := rfl
@[simp] theorem State.setGen_crcRx (s : State) (v : CrcGen) : (s.setGen v).crcRx = s.crcRx := rfl
@[simp] theorem State.setGen_sums (s : State) (v : CrcGen) : (s.setGen v).sums = s.sums := rfl
@[simp] theorem State.setGen_flRx (s : State) (v : CrcGen) : (s.setGen v).flRx = s.flRx := rfl
@[simp] theorem State.setGen_res (s : State) (v : CrcGen) : (s.setGen v).res = s.res := rfl
@[simp] theorem State.setGen_asm (s : State) (v : CrcGen) : (s.setGen v).asm = s.asm := rfl
@[simp] theorem State.setGen_status (s : State) (v : CrcGen) : (s.setGen v).status = s.status := rfl
@[simp] theorem State.setGen_errCmd (s : State) (v : CrcGen) : (s.setGen v).errCmd = s.errCmd := rfl
@[simp] theorem State.setGen_cSeq (s : State) (v : CrcGen) : (s.setGen v).cSeq = s.cSeq := rfl
@[simp] theorem State.setGen_port (s : State) (v : CrcGen) : (s.setGen v).port = s.port := rfl
@[simp] theorem State.setGen_replies (s : State) (v : CrcGen) : (s.setGen v).replies = s.replies := rfl
@[simp] theorem State.setGen_draws (s : State) (v : CrcGen) : (s.setGen v).draws = s.draws := rfl

/-! `setCrcRx` -/

@[simp] theorem State.setCrcRx_fb (s : State) (v : BitVec 24) : (s.setCrcRx v).fb = s.fb := rfl
@[simp] theorem State.setCrcRx_flen (s : State) (v : BitVec 24) : (s.setCrcRx v).flen = s.flen := rfl
@[simp] theorem State.setCrcRx_gen (s : State) (v : BitVec 24) : (s.setCrcRx v).gen = s.gen := rfl
@[simp] theorem State.setCrcRx_crcRx (s : State) (v : BitVec 24) : (s.setCrcRx v).crcRx = v := rfl
@[simp] theorem State.setCrcRx_sums (s : State) (v : BitVec 24) : (s.setCrcRx v).sums = s.sums := rfl
@[simp] theorem State.setCrcRx_flRx (s : State) (v : BitVec 24) : (s.setCrcRx v).flRx = s.flRx := rfl
@[simp] theorem State.setCrcRx_res (s : State) (v : BitVec 24) : (s.setCrcRx v).res = s.res := rfl
@[simp] theorem State.setCrcRx_asm (s : State) (v : BitVec 24) : (s.setCrcRx v).asm = s.asm := rfl
@[simp] theorem State.setCrcRx_status (s : State) (v : BitVec 24) : (s.setCrcRx v).status = s.status := rfl
@[simp] theorem State.setCrcRx_errCmd (s : State) (v : BitVec 24) : (s.setCrcRx v).errCmd = s.errCmd := rfl
@[simp] theorem State.setCrcRx_cSeq (s : State) (v : BitVec 24) : (s.setCrcRx v).cSeq = s.cSeq := rfl
@[simp] theorem State.setCrcRx_port (s : State) (v : BitVec 24) : (s.setCrcRx v).port = s.port := rfl
@[simp] theorem State.setCrcRx_replies (s : State) (v : BitVec 24) : (s.setCrcRx v).replies = s.replies := rfl
@[simp] theorem State.setCrcRx_draws (s : State) (v : BitVec 24) : (s.setCrcRx v).draws = s.draws := rfl

/-! `setSums` -/

@[simp] theorem State.setSums_fb (s : State) (v : FlSums) : (s.setSums v).fb = s.fb := rfl
@[simp] theorem State.setSums_flen (s : State) (v : FlSums) : (s.setSums v).flen = s.flen := rfl
@[simp] theorem State.setSums_gen (s : State) (v : FlSums) : (s.setSums v).gen = s.gen := rfl
@[simp] theorem State.setSums_crcRx (s : State) (v : FlSums) : (s.setSums v).crcRx = s.crcRx := rfl
@[simp] theorem State.setSums_sums (s : State) (v : FlSums) : (s.setSums v).sums = v := rfl
@[simp] theorem State.setSums_flRx (s : State) (v : FlSums) : (s.setSums v).flRx = s.flRx := rfl
@[simp] theorem State.setSums_res (s : State) (v : FlSums) : (s.setSums v).res = s.res := rfl
@[simp] theorem State.setSums_asm (s : State) (v : FlSums) : (s.setSums v).asm = s.asm := rfl
@[simp] theorem State.setSums_status (s : State) (v : FlSums) : (s.setSums v).status = s.status := rfl
@[simp] theorem State.setSums_errCmd (s : State) (v : FlSums) : (s.setSums v).errCmd = s.errCmd := rfl
@[simp] theorem State.setSums_cSeq (s : State) (v : FlSums) : (s.setSums v).cSeq = s.cSeq := rfl
@[simp] theorem State.setSums_port (s : State) (v : FlSums) : (s.setSums v).port = s.port := rfl
@[simp] theorem State.setSums_replies (s : State) (v : FlSums) : (s.setSums v).replies = s.replies := rfl
@[simp] theorem State.setSums_draws (s : State) (v : FlSums) : (s.setSums v).draws = s.draws := rfl

/-! `setFlRx` -/

@[simp] theorem State.setFlRx_fb (s : State) (v : BitVec 16) : (s.setFlRx v).fb = s.fb := rfl
@[simp] theorem State.setFlRx_flen (s : State) (v : BitVec 16) : (s.setFlRx v).flen = s.flen := rfl
@[simp] theorem State.setFlRx_gen (s : State) (v : BitVec 16) : (s.setFlRx v).gen = s.gen := rfl
@[simp] theorem State.setFlRx_crcRx (s : State) (v : BitVec 16) : (s.setFlRx v).crcRx = s.crcRx := rfl
@[simp] theorem State.setFlRx_sums (s : State) (v : BitVec 16) : (s.setFlRx v).sums = s.sums := rfl
@[simp] theorem State.setFlRx_flRx (s : State) (v : BitVec 16) : (s.setFlRx v).flRx = v := rfl
@[simp] theorem State.setFlRx_res (s : State) (v : BitVec 16) : (s.setFlRx v).res = s.res := rfl
@[simp] theorem State.setFlRx_asm (s : State) (v : BitVec 16) : (s.setFlRx v).asm = s.asm := rfl
@[simp] theorem State.setFlRx_status (s : State) (v : BitVec 16) : (s.setFlRx v).status = s.status := rfl
@[simp] theorem State.setFlRx_errCmd (s : State) (v : BitVec 16) : (s.setFlRx v).errCmd = s.errCmd := rfl
@[simp] theorem State.setFlRx_cSeq (s : State) (v : BitVec 16) : (s.setFlRx v).cSeq = s.cSeq := rfl
@[simp] theorem State.setFlRx_port (s : State) (v : BitVec 16) : (s.setFlRx v).port = s.port := rfl
@[simp] theorem State.setFlRx_replies (s : State) (v : BitVec 16) : (s.setFlRx v).replies = s.replies := rfl
@[simp] theorem State.setFlRx_draws (s : State) (v : BitVec 16) : (s.setFlRx v).draws = s.draws := rfl

/-! `setRes` -/

@[simp] theorem State.setRes_fb (s : State) (v : BitVec 64) : (s.setRes v).fb = s.fb := rfl
@[simp] theorem State.setRes_flen (s : State) (v : BitVec 64) : (s.setRes v).flen = s.flen := rfl
@[simp] theorem State.setRes_gen (s : State) (v : BitVec 64) : (s.setRes v).gen = s.gen := rfl
@[simp] theorem State.setRes_crcRx (s : State) (v : BitVec 64) : (s.setRes v).crcRx = s.crcRx := rfl
@[simp] theorem State.setRes_sums (s : State) (v : BitVec 64) : (s.setRes v).sums = s.sums := rfl
@[simp] theorem State.setRes_flRx (s : State) (v : BitVec 64) : (s.setRes v).flRx = s.flRx := rfl
@[simp] theorem State.setRes_res (s : State) (v : BitVec 64) : (s.setRes v).res = v := rfl
@[simp] theorem State.setRes_asm (s : State) (v : BitVec 64) : (s.setRes v).asm = s.asm := rfl
@[simp] theorem State.setRes_status (s : State) (v : BitVec 64) : (s.setRes v).status = s.status := rfl
@[simp] theorem State.setRes_errCmd (s : State) (v : BitVec 64) : (s.setRes v).errCmd = s.errCmd := rfl
@[simp] theorem State.setRes_cSeq (s : State) (v : BitVec 64) : (s.setRes v).cSeq = s.cSeq := rfl
@[simp] theorem State.setRes_port (s : State) (v : BitVec 64) : (s.setRes v).port = s.port := rfl
@[simp] theorem State.setRes_replies (s : State) (v : BitVec 64) : (s.setRes v).replies = s.replies := rfl
@[simp] theorem State.setRes_draws (s : State) (v : BitVec 64) : (s.setRes v).draws = s.draws := rfl

/-! `setAsm` -/

@[simp] theorem State.setAsm_fb (s : State) (v : Reasm) : (s.setAsm v).fb = s.fb := rfl
@[simp] theorem State.setAsm_flen (s : State) (v : Reasm) : (s.setAsm v).flen = s.flen := rfl
@[simp] theorem State.setAsm_gen (s : State) (v : Reasm) : (s.setAsm v).gen = s.gen := rfl
@[simp] theorem State.setAsm_crcRx (s : State) (v : Reasm) : (s.setAsm v).crcRx = s.crcRx := rfl
@[simp] theorem State.setAsm_sums (s : State) (v : Reasm) : (s.setAsm v).sums = s.sums := rfl
@[simp] theorem State.setAsm_flRx (s : State) (v : Reasm) : (s.setAsm v).flRx = s.flRx := rfl
@[simp] theorem State.setAsm_res (s : State) (v : Reasm) : (s.setAsm v).res = s.res := rfl
@[simp] theorem State.setAsm_asm (s : State) (v : Reasm) : (s.setAsm v).asm = v := rfl
@[simp] theorem State.setAsm_status (s : State) (v : Reasm) : (s.setAsm v).status = s.status := rfl
@[simp] theorem State.setAsm_errCmd (s : State) (v : Reasm) : (s.setAsm v).errCmd = s.errCmd := rfl
@[simp] theorem State.setAsm_cSeq (s : State) (v : Reasm) : (s.setAsm v).cSeq = s.cSeq := rfl
@[simp] theorem State.setAsm_port (s : State) (v : Reasm) : (s.setAsm v).port = s.port := rfl
@[simp] theorem State.setAsm_replies (s : State) (v : Reasm) : (s.setAsm v).replies = s.replies := rfl
@[simp] theorem State.setAsm_draws (s : State) (v : Reasm) : (s.setAsm v).draws = s.draws := rfl

/-! `setStatus` -/

@[simp] theorem State.setStatus_fb (s : State) (v : Status) : (s.setStatus v).fb = s.fb := rfl
@[simp] theorem State.setStatus_flen (s : State) (v : Status) : (s.setStatus v).flen = s.flen := rfl
@[simp] theorem State.setStatus_gen (s : State) (v : Status) : (s.setStatus v).gen = s.gen := rfl
@[simp] theorem State.setStatus_crcRx (s : State) (v : Status) : (s.setStatus v).crcRx = s.crcRx := rfl
@[simp] theorem State.setStatus_sums (s : State) (v : Status) : (s.setStatus v).sums = s.sums := rfl
@[simp] theorem State.setStatus_flRx (s : State) (v : Status) : (s.setStatus v).flRx = s.flRx := rfl
@[simp] theorem State.setStatus_res (s : State) (v : Status) : (s.setStatus v).res = s.res := rfl
@[simp] theorem State.setStatus_asm (s : State) (v : Status) : (s.setStatus v).asm = s.asm := rfl
@[simp] theorem State.setStatus_status (s : State) (v : Status) : (s.setStatus v).status = v := rfl
@[simp] theorem State.setStatus_errCmd (s : State) (v : Status) : (s.setStatus v).errCmd = s.errCmd := rfl
@[simp] theorem State.setStatus_cSeq (s : State) (v : Status) : (s.setStatus v).cSeq = s.cSeq := rfl
@[simp] theorem State.setStatus_port (s : State) (v : Status) : (s.setStatus v).port = s.port := rfl
@[simp] theorem State.setStatus_replies (s : State) (v : Status) : (s.setStatus v).replies = s.replies := rfl
@[simp] theorem State.setStatus_draws (s : State) (v : Status) : (s.setStatus v).draws = s.draws := rfl

/-! `setErrCmd` -/

@[simp] theorem State.setErrCmd_fb (s : State) (v : Word) : (s.setErrCmd v).fb = s.fb := rfl
@[simp] theorem State.setErrCmd_flen (s : State) (v : Word) : (s.setErrCmd v).flen = s.flen := rfl
@[simp] theorem State.setErrCmd_gen (s : State) (v : Word) : (s.setErrCmd v).gen = s.gen := rfl
@[simp] theorem State.setErrCmd_crcRx (s : State) (v : Word) : (s.setErrCmd v).crcRx = s.crcRx := rfl
@[simp] theorem State.setErrCmd_sums (s : State) (v : Word) : (s.setErrCmd v).sums = s.sums := rfl
@[simp] theorem State.setErrCmd_flRx (s : State) (v : Word) : (s.setErrCmd v).flRx = s.flRx := rfl
@[simp] theorem State.setErrCmd_res (s : State) (v : Word) : (s.setErrCmd v).res = s.res := rfl
@[simp] theorem State.setErrCmd_asm (s : State) (v : Word) : (s.setErrCmd v).asm = s.asm := rfl
@[simp] theorem State.setErrCmd_status (s : State) (v : Word) : (s.setErrCmd v).status = s.status := rfl
@[simp] theorem State.setErrCmd_errCmd (s : State) (v : Word) : (s.setErrCmd v).errCmd = v := rfl
@[simp] theorem State.setErrCmd_cSeq (s : State) (v : Word) : (s.setErrCmd v).cSeq = s.cSeq := rfl
@[simp] theorem State.setErrCmd_port (s : State) (v : Word) : (s.setErrCmd v).port = s.port := rfl
@[simp] theorem State.setErrCmd_replies (s : State) (v : Word) : (s.setErrCmd v).replies = s.replies := rfl
@[simp] theorem State.setErrCmd_draws (s : State) (v : Word) : (s.setErrCmd v).draws = s.draws := rfl

/-! `setPort` -/

@[simp] theorem State.setPort_fb (s : State) (v : List HostOp) : (s.setPort v).fb = s.fb := rfl
@[simp] theorem State.setPort_flen (s : State) (v : List HostOp) : (s.setPort v).flen = s.flen := rfl
@[simp] theorem State.setPort_gen (s : State) (v : List HostOp) : (s.setPort v).gen = s.gen := rfl
@[simp] theorem State.setPort_crcRx (s : State) (v : List HostOp) : (s.setPort v).crcRx = s.crcRx := rfl
@[simp] theorem State.setPort_sums (s : State) (v : List HostOp) : (s.setPort v).sums = s.sums := rfl
@[simp] theorem State.setPort_flRx (s : State) (v : List HostOp) : (s.setPort v).flRx = s.flRx := rfl
@[simp] theorem State.setPort_res (s : State) (v : List HostOp) : (s.setPort v).res = s.res := rfl
@[simp] theorem State.setPort_asm (s : State) (v : List HostOp) : (s.setPort v).asm = s.asm := rfl
@[simp] theorem State.setPort_status (s : State) (v : List HostOp) : (s.setPort v).status = s.status := rfl
@[simp] theorem State.setPort_errCmd (s : State) (v : List HostOp) : (s.setPort v).errCmd = s.errCmd := rfl
@[simp] theorem State.setPort_cSeq (s : State) (v : List HostOp) : (s.setPort v).cSeq = s.cSeq := rfl
@[simp] theorem State.setPort_port (s : State) (v : List HostOp) : (s.setPort v).port = v := rfl
@[simp] theorem State.setPort_replies (s : State) (v : List HostOp) : (s.setPort v).replies = s.replies := rfl
@[simp] theorem State.setPort_draws (s : State) (v : List HostOp) : (s.setPort v).draws = s.draws := rfl

/-! `setReplies` -/

@[simp] theorem State.setReplies_fb (s : State) (v : List Word) : (s.setReplies v).fb = s.fb := rfl
@[simp] theorem State.setReplies_flen (s : State) (v : List Word) : (s.setReplies v).flen = s.flen := rfl
@[simp] theorem State.setReplies_gen (s : State) (v : List Word) : (s.setReplies v).gen = s.gen := rfl
@[simp] theorem State.setReplies_crcRx (s : State) (v : List Word) : (s.setReplies v).crcRx = s.crcRx := rfl
@[simp] theorem State.setReplies_sums (s : State) (v : List Word) : (s.setReplies v).sums = s.sums := rfl
@[simp] theorem State.setReplies_flRx (s : State) (v : List Word) : (s.setReplies v).flRx = s.flRx := rfl
@[simp] theorem State.setReplies_res (s : State) (v : List Word) : (s.setReplies v).res = s.res := rfl
@[simp] theorem State.setReplies_asm (s : State) (v : List Word) : (s.setReplies v).asm = s.asm := rfl
@[simp] theorem State.setReplies_status (s : State) (v : List Word) : (s.setReplies v).status = s.status := rfl
@[simp] theorem State.setReplies_errCmd (s : State) (v : List Word) : (s.setReplies v).errCmd = s.errCmd := rfl
@[simp] theorem State.setReplies_cSeq (s : State) (v : List Word) : (s.setReplies v).cSeq = s.cSeq := rfl
@[simp] theorem State.setReplies_port (s : State) (v : List Word) : (s.setReplies v).port = s.port := rfl
@[simp] theorem State.setReplies_replies (s : State) (v : List Word) : (s.setReplies v).replies = v := rfl
@[simp] theorem State.setReplies_draws (s : State) (v : List Word) : (s.setReplies v).draws = s.draws := rfl

/-! `count` -/

@[simp] theorem State.count_fb (s : State) : s.count.fb = s.fb := rfl
@[simp] theorem State.count_flen (s : State) : s.count.flen = s.flen := rfl
@[simp] theorem State.count_gen (s : State) : s.count.gen = s.gen := rfl
@[simp] theorem State.count_crcRx (s : State) : s.count.crcRx = s.crcRx := rfl
@[simp] theorem State.count_sums (s : State) : s.count.sums = s.sums := rfl
@[simp] theorem State.count_flRx (s : State) : s.count.flRx = s.flRx := rfl
@[simp] theorem State.count_res (s : State) : s.count.res = s.res := rfl
@[simp] theorem State.count_asm (s : State) : s.count.asm = s.asm := rfl
@[simp] theorem State.count_status (s : State) : s.count.status = s.status := rfl
@[simp] theorem State.count_errCmd (s : State) : s.count.errCmd = s.errCmd := rfl
@[simp] theorem State.count_cSeq (s : State) : s.count.cSeq = s.cSeq + 1 := rfl
@[simp] theorem State.count_port (s : State) : s.count.port = s.port := rfl
@[simp] theorem State.count_replies (s : State) : s.count.replies = s.replies := rfl
@[simp] theorem State.count_draws (s : State) : s.count.draws = s.draws := rfl

/-! `redraw` -/

@[simp] theorem State.redraw_fb (s : State) : s.redraw.fb = s.fb := rfl
@[simp] theorem State.redraw_flen (s : State) : s.redraw.flen = s.flen := rfl
@[simp] theorem State.redraw_gen (s : State) : s.redraw.gen = s.gen := rfl
@[simp] theorem State.redraw_crcRx (s : State) : s.redraw.crcRx = s.crcRx := rfl
@[simp] theorem State.redraw_sums (s : State) : s.redraw.sums = s.sums := rfl
@[simp] theorem State.redraw_flRx (s : State) : s.redraw.flRx = s.flRx := rfl
@[simp] theorem State.redraw_res (s : State) : s.redraw.res = s.res := rfl
@[simp] theorem State.redraw_asm (s : State) : s.redraw.asm = s.asm := rfl
@[simp] theorem State.redraw_status (s : State) : s.redraw.status = s.status := rfl
@[simp] theorem State.redraw_errCmd (s : State) : s.redraw.errCmd = s.errCmd := rfl
@[simp] theorem State.redraw_cSeq (s : State) : s.redraw.cSeq = s.cSeq := rfl
@[simp] theorem State.redraw_port (s : State) : s.redraw.port = s.port := rfl
@[simp] theorem State.redraw_replies (s : State) : s.redraw.replies = s.replies := rfl
@[simp] theorem State.redraw_draws (s : State) : s.redraw.draws = s.draws + 1 := rfl

/-! A frame-buffer read looks at FB and at the draw only. -/

@[simp] theorem State.fbByte_count (s : State) : s.count.fbByte = s.fbByte := rfl
@[simp] theorem State.fbByte_setGen (s : State) (v : CrcGen) : (s.setGen v).fbByte = s.fbByte := rfl
@[simp] theorem State.fbByte_setCrcRx (s : State) (v : BitVec 24) : (s.setCrcRx v).fbByte = s.fbByte := rfl
@[simp] theorem State.fbByte_setSums (s : State) (v : FlSums) : (s.setSums v).fbByte = s.fbByte := rfl
@[simp] theorem State.fbByte_setFlRx (s : State) (v : BitVec 16) : (s.setFlRx v).fbByte = s.fbByte := rfl
@[simp] theorem State.fbByte_setStatus (s : State) (v : Status) : (s.setStatus v).fbByte = s.fbByte := rfl
@[simp] theorem State.fbByte_setErrCmd (s : State) (v : Word) : (s.setErrCmd v).fbByte = s.fbByte := rfl
@[simp] theorem State.fbByte_setPort (s : State) (v : List HostOp) : (s.setPort v).fbByte = s.fbByte := rfl
@[simp] theorem State.fbByte_setRes (s : State) (v : BitVec 64) : (s.setRes v).fbByte = s.fbByte := rfl
@[simp] theorem State.fbByte_setAsm (s : State) (v : Reasm) : (s.setAsm v).fbByte = s.fbByte := rfl
@[simp] theorem State.fbByte_setFlen (s : State) (v : BitVec 24) : (s.setFlen v).fbByte = s.fbByte := rfl

/-- A written byte reads as the byte written. -/
theorem State.fbByte_of_read (s : State) (a : Nat) (b : Byte) (h : s.fb.read a = some b) : s.fbByte a = b := by
  simp [State.fbByte, h]

end Sys2Proof.Machine
end

