-- ==== Sys2Proof/Laws/Operands.lean ====
section
/-!
SUPPORT. The operand forms bit by bit: bit lists, stream fields, little-endian loads, and the widening of a field.
-/

namespace Sys2Proof.Machine

/-! ### Bit lists -/

@[simp] theorem ofBits_nil : ofBits [] = 0 := rfl

theorem ofBits_append_singleton (l : List Bool) (b : Bool) : ofBits (l ++ [b]) = 2 * ofBits l + b.toNat := by
  simp [ofBits]

/-- Bit j of the number is the j-th bit from the end of the list. -/
theorem testBit_ofBits (l : List Bool) (j : Nat) :
    (ofBits l).testBit j = if j < l.length then l.getD (l.length - 1 - j) false else false := by
  induction l using List.reverseRecOn generalizing j with
  | nil => simp
  | append_singleton l b ih =>
    rw [ofBits_append_singleton]
    cases j with
    | zero => cases b <;> simp [Nat.testBit_zero, Nat.add_mod]
    | succ j =>
      have hdiv : (2 * ofBits l + b.toNat) / 2 = ofBits l := by
        have := b.toNat_lt
        omega
      rw [Nat.testBit_succ, hdiv, ih]
      by_cases h : j < l.length
      · rw [if_pos h, if_pos (by simp; omega)]
        simp only [List.length_append, List.length_singleton]
        rw [show l.length + 1 - 1 - (j + 1) = l.length - 1 - j by omega]
        simp only [List.getD_eq_getElem?_getD]
        rw [List.getElem?_append_left (by omega)]
      · rw [if_neg h, if_neg (by simp; omega)]

theorem ofBits_lt (l : List Bool) : ofBits l < 2 ^ l.length := by
  apply Nat.lt_pow_two_of_testBit
  intro j hj
  rw [testBit_ofBits, if_neg (by omega)]

@[simp] theorem length_streamBits (buf : Nat → Byte) (off n : Nat) : (streamBits buf off n).length = n := by
  simp [streamBits]

theorem getElem?_streamBits (buf : Nat → Byte) (off n j : Nat) (h : j < n) :
    (streamBits buf off n)[j]? = some (streamBit buf (off + j)) := by
  simp [streamBits, h]

/-- Bit j of a stream field is stream bit off + w - 1 - j (00_scope R11). -/
theorem testBit_streamField (buf : Nat → Byte) (off w j : Nat) :
    (streamField buf off w).testBit j = if j < w then streamBit buf (off + (w - 1 - j)) else false := by
  rw [streamField, testBit_ofBits, length_streamBits]
  by_cases h : j < w
  · rw [if_pos h, if_pos h, List.getD_eq_getElem?_getD, getElem?_streamBits _ _ _ _ (by omega)]
    rfl
  · rw [if_neg h, if_neg h]

theorem streamField_lt (buf : Nat → Byte) (off w : Nat) : streamField buf off w < 2 ^ w := by
  simpa [streamField] using ofBits_lt (streamBits buf off w)

/-- Two adjacent windows are one window. -/
theorem streamBits_append (buf : Nat → Byte) (off m n : Nat) :
    streamBits buf off (m + n) = streamBits buf off m ++ streamBits buf (off + m) n := by
  simp [streamBits, List.range_add, Nat.add_assoc]

/-- A window depends on its bits only. -/
theorem streamBits_congr (buf buf' : Nat → Byte) (off n : Nat)
    (h : ∀ k < n, streamBit buf (off + k) = streamBit buf' (off + k)) :
    streamBits buf off n = streamBits buf' off n := by
  simp only [streamBits]
  exact List.map_congr_left fun k hk => h k (List.mem_range.1 hk)

theorem streamBit_congr (buf buf' : Nat → Byte) (k : Nat) (h : buf (k / 8) = buf' (k / 8)) :
    streamBit buf k = streamBit buf' k := by simp [streamBit, h]

@[simp] theorem length_bitsOf (k v : Nat) : (bitsOf k v).length = k := by simp [bitsOf]

theorem getElem?_bitsOf (k v j : Nat) (h : j < k) : (bitsOf k v)[j]? = some (v.testBit (k - 1 - j)) := by
  simp [bitsOf, h]

/-- The bits of a number, read back as a number. -/
theorem ofBits_bitsOf (k v : Nat) : ofBits (bitsOf k v) = v % 2 ^ k := by
  apply Nat.eq_of_testBit_eq
  intro j
  rw [testBit_ofBits, length_bitsOf, Nat.testBit_mod_two_pow]
  by_cases h : j < k
  · rw [if_pos h, List.getD_eq_getElem?_getD, getElem?_bitsOf _ _ _ (by omega)]
    simp [h, show k - 1 - (k - 1 - j) = j by omega]
  · simp [h]

/-! ### Bytes -/

@[simp] theorem length_memRead (buf : Nat → Byte) (a n : Nat) : (memRead buf a n).length = n := by simp [memRead]

@[simp] theorem loadLE_zero (buf : Nat → Byte) (a : Nat) : loadLE buf a 0 = 0 := rfl

/-- The lowest byte of a little-endian load is the byte at the lowest address. -/
theorem loadLE_succ (buf : Nat → Byte) (a n : Nat) :
    loadLE buf a (n + 1) = (buf a).toNat + 256 * loadLE buf (a + 1) n := by
  have : memRead buf a (n + 1) = buf a :: memRead buf (a + 1) n := by
    simp [memRead, List.range_succ_eq_map, Function.comp_def, Nat.add_assoc, Nat.add_comm 1]
  simp [loadLE, this]

/-- Bit k of a little-endian load is bit k mod 8 of byte k div 8 (00_scope R14). -/
theorem testBit_loadLE (buf : Nat → Byte) (a n k : Nat) :
    (loadLE buf a n).testBit k = if k < 8 * n then (buf (a + k / 8)).getLsbD (k % 8) else false := by
  induction n generalizing a k with
  | zero => simp
  | succ n ih =>
    have hb : (buf a).toNat < 2 ^ 8 := (buf a).isLt
    rw [loadLE_succ, Nat.add_comm, show (256 : Nat) = 2 ^ 8 by rfl, Nat.testBit_two_pow_mul_add _ hb]
    by_cases h8 : k < 8
    · rw [if_pos h8, if_pos (by omega), Nat.div_eq_of_lt h8, Nat.mod_eq_of_lt h8]
      simp [BitVec.getLsbD]
    · rw [if_neg h8, ih]
      by_cases h : k < 8 * (n + 1)
      · rw [if_pos (by omega), if_pos h, show a + 1 + (k - 8) / 8 = a + k / 8 by omega,
          show (k - 8) % 8 = k % 8 by omega]
      · rw [if_neg (by omega), if_neg h]

theorem loadLE_two (buf : Nat → Byte) (a : Nat) :
    loadLE buf a 2 = (buf a).toNat + 256 * (buf (a + 1)).toNat := by simp [loadLE_succ]

@[simp] theorem length_bytesOf (n v : Nat) : (bytesOf n v).length = n := by simp [bytesOf]

/-! ### The frame's bounds -/

theorem frameHas_iff (s : State) (a n : Nat) : s.frameHas a n = true ↔ a + n ≤ s.flen.toNat := decide_eq_true_iff

theorem frameHasBits_iff (s : State) (a n : Nat) : s.frameHasBits a n = true ↔ a + n ≤ 8 * s.flen.toNat :=
  decide_eq_true_iff

/-! ### The field read -/

@[simp] theorem State.buffer_count (s : State) (src : Source) : s.count.buffer src = s.buffer src := by
  cases src <;> rfl

@[simp] theorem State.bufferLen_count (s : State) (src : Source) : s.count.bufferLen src = s.bufferLen src := by
  cases src <;> rfl

/-- Counting a command changes no field. -/
@[simp] theorem fieldRead_count (s : State) (src : Source) (place : FieldAt) (w : Nat) :
    fieldRead s.count src place w = fieldRead s src place w := by
  cases place <;> simp [fieldRead]

/-- What a big-endian field read answers (41_bitfield R131, R133). -/
theorem fieldRead_be (s : State) (src : Source) (off w : Nat) :
    fieldRead s src (.be off) w =
      if widthOK w = false then .error .invalidFieldSpec
      else if off + w > 8 * s.bufferLen src then .error .truncated
      else .ok (streamField (s.buffer src) off w) := by
  cases h : widthOK w <;> simp [fieldRead, h, beField]

/-- What a little-endian field read answers (41_bitfield R132, R133). -/
theorem fieldRead_le (s : State) (src : Source) (nc : Container) (addr p w : Nat) :
    fieldRead s src (.le nc addr p) w =
      if widthOK w = false then .error .invalidFieldSpec
      else if p + w > 8 * nc.bytes then .error .invalidFieldSpec
      else if addr + nc.bytes > s.bufferLen src then .error .truncated
      else .ok (loadLE (s.buffer src) addr nc.bytes / 2 ^ (8 * nc.bytes - p - w) % 2 ^ w) := by
  cases h : widthOK w <;> simp [fieldRead, h, leField]

theorem widthOK_iff (w : Nat) : widthOK w = true ↔ 1 ≤ w ∧ w ≤ 64 := by
  rw [widthOK, Bool.and_eq_true]
  exact and_congr decide_eq_true_iff decide_eq_true_iff

/-- A field that is read fits its width. -/
theorem fieldRead_lt (s : State) (src : Source) (place : FieldAt) (w v : Nat) (h : fieldRead s src place w = .ok v) :
    v < 2 ^ w := by
  cases place with
  | be off =>
    rw [fieldRead_be] at h
    split_ifs at h
    cases h
    exact streamField_lt _ _ _
  | le nc addr p =>
    rw [fieldRead_le] at h
    split_ifs at h
    cases h
    exact Nat.mod_lt _ (by positivity)

/-! ### Widening -/

@[simp] theorem widen_unsigned (n v : Nat) : widen .unsigned n v = BitVec.ofNat 64 v := rfl

/-- A signed result is the field sign-extended from its width to 64 bits (00_scope R13). -/
theorem widen_signed (n v : Nat) (hn : 1 ≤ n) (hv : v < 2 ^ n) :
    widen .signed n v = (BitVec.ofNat n v).signExtend 64 := by
  have hmsb : (BitVec.ofNat n v).msb = v.testBit (n - 1) := by
    rw [BitVec.msb_eq_getLsbD_last, BitVec.getLsbD_ofNat]
    simp
    omega
  simp only [widen, sext, BitVec.signExtend, BitVec.toInt_eq_msb_cond, hmsb, BitVec.toNat_ofNat,
    Nat.mod_eq_of_lt hv]
  norm_cast

/-- Bit j of a widened field: its own bit, and above the width 0 or a copy of its sign bit (41_bitfield R135). -/
theorem getLsbD_widen (sg : Signedness) (n v j : Nat) (hn : 1 ≤ n) (hv : v < 2 ^ n) (hj : j < 64) :
    (widen sg n v).getLsbD j = if j < n then v.testBit j else (sg.isSigned && v.testBit (n - 1)) := by
  cases sg with
  | unsigned =>
    simp only [widen_unsigned, BitVec.getLsbD_ofNat, hj, decide_true, Bool.true_and, Signedness.isSigned,
      Bool.false_and]
    split
    · rfl
    · exact Nat.testBit_lt_two_pow (Nat.lt_of_lt_of_le hv (Nat.pow_le_pow_right (by omega) (by omega)))
  | signed =>
    rw [widen_signed n v hn hv, BitVec.getLsbD_signExtend]
    simp only [hj, decide_true, Bool.true_and, Signedness.isSigned, BitVec.msb_eq_getLsbD_last,
      BitVec.getLsbD_ofNat]
    split
    · simp [*]
    · simp
      omega

end Sys2Proof.Machine
end

