-- ==== Sys2Proof/Laws/Flags.lean ====
section
/-!
SUPPORT. What each STATUS operation does, bit by bit.
-/

namespace Sys2Proof.Machine

theorem Flag.bit_range (f : Flag) : 4 ≤ f.bit ∧ f.bit ≤ 13 := by cases f <;> decide

theorem Flag.bit_injective {f g : Flag} (h : f.bit = g.bit) : f = g := by
  cases f <;> cases g <;> first | rfl | (exact absurd h (by decide))

/-- Writing a flag changes its bit and no other. -/
theorem Status.getLsbD_setFlag (st : Status) (f : Flag) (v : Bool) (j : Nat) :
    (st.setFlag f v).getLsbD j = if j = f.bit then v else st.getLsbD j := by
  have hb := f.bit_range
  have hlt : f.bit < 64 := by omega
  have h64 : 64 ≤ j → st.getLsbD j = false := BitVec.getLsbD_of_ge st j
  by_cases hj : j < 64
  · by_cases h : j = f.bit
    · subst h
      cases v <;> simp [Status.setFlag, hj]
    · cases v <;> simp [Status.setFlag, hj, h]
  · rw [BitVec.getLsbD_of_ge _ _ (by omega), if_neg (by omega), h64 (by omega)]

/-- Writing ERR changes bits [2:0] and no other. -/
theorem Status.getLsbD_setErr (st : Status) (c : BitVec 3) (j : Nat) :
    (st.setErr c).getLsbD j = if j < 3 then c.getLsbD j else st.getLsbD j := by
  have h7 : (7 : BitVec 64).getLsbD j = decide (j < 3) := by
    by_cases h : j < 64
    · interval_cases j <;> rfl
    · rw [BitVec.getLsbD_of_ge _ _ (by omega)]
      simp
      omega
  have h64 : 64 ≤ j → st.getLsbD j = false := BitVec.getLsbD_of_ge st j
  have h3 : 3 ≤ j → c.getLsbD j = false := BitVec.getLsbD_of_ge c j
  simp only [Status.setErr, BitVec.getLsbD_or, BitVec.getLsbD_and, BitVec.getLsbD_not, BitVec.getLsbD_setWidth, h7]
  by_cases h : j < 3
  · simp [h, show j < 64 by omega]
  · by_cases hj : j < 64
    · simp [h, hj, h3 (by omega)]
    · simp [h, hj, h64 (by omega), h3 (by omega)]

@[simp] theorem Status.flag_setFlag_same (st : Status) (f : Flag) (v : Bool) : (st.setFlag f v).flag f = v := by
  simp [Status.flag, Status.getLsbD_setFlag]

theorem Status.flag_setFlag (st : Status) (f g : Flag) (v : Bool) :
    (st.setFlag f v).flag g = if g = f then v else st.flag g := by
  simp only [Status.flag, Status.getLsbD_setFlag]
  by_cases h : g = f
  · simp [h]
  · rw [if_neg (fun e => h (Flag.bit_injective e)), if_neg h]

@[simp] theorem Status.flag_setErr (st : Status) (c : BitVec 3) (f : Flag) : (st.setErr c).flag f = st.flag f := by
  have := f.bit_range
  simp only [Status.flag, Status.getLsbD_setErr]
  rw [if_neg (by omega)]

theorem Status.getLsbD_err (st : Status) (j : Nat) : st.err.getLsbD j = (decide (j < 3) && st.getLsbD j) := by
  simp [Status.err]

@[simp] theorem Status.err_setErr (st : Status) (c : BitVec 3) : (st.setErr c).err = c := by
  ext j hj
  simp [← BitVec.getLsbD_eq_getElem, Status.getLsbD_err, Status.getLsbD_setErr, hj]

@[simp] theorem Status.err_setFlag (st : Status) (f : Flag) (v : Bool) : (st.setFlag f v).err = st.err := by
  have := f.bit_range
  ext j hj
  simp only [← BitVec.getLsbD_eq_getElem, Status.getLsbD_err, Status.getLsbD_setFlag]
  rw [if_neg (by omega)]

/-- Two STATUS words with equal bits are equal. -/
theorem Status.ext_bits {st st' : Status} (h : ∀ j < 64, st.getLsbD j = st'.getLsbD j) : st = st' :=
  BitVec.eq_of_getLsbD_eq h

/-- What recording a check result does to the flags of the CRC unit, and that it changes no other bit. -/
theorem Status.getLsbD_setCrcCheck (st : Status) (r : Option Bool) (j : Nat) :
    (st.setCrcCheck r).getLsbD j =
      if j = 9 then r.getD false else if j = 8 then r.isSome else st.getLsbD j := by
  cases r <;> simp only [Status.setCrcCheck, Status.getLsbD_setFlag, Flag.bit] <;> rfl

/-- What recording a check result does to the flags of the Fletcher unit, and that it changes no other bit. -/
theorem Status.getLsbD_setFlCheck (st : Status) (r : Option Bool) (j : Nat) :
    (st.setFlCheck r).getLsbD j =
      if j = 11 then r.getD false else if j = 10 then r.isSome else st.getLsbD j := by
  cases r <;> simp only [Status.setFlCheck, Status.getLsbD_setFlag, Flag.bit] <;> rfl

theorem Status.getLsbD_noteMismatch (st : Status) (ok : Bool) (j : Nat) :
    (st.noteMismatch ok).getLsbD j = if j = 7 then (!ok || st.getLsbD 7) else st.getLsbD j := by
  by_cases h : j = 7
  · subst h
    cases ok <;> simp [Status.noteMismatch, Status.getLsbD_setFlag, Flag.bit]
  · cases ok <;> simp [Status.noteMismatch, Status.getLsbD_setFlag, Flag.bit, h]

theorem Status.getLsbD_clearSticky (st : Status) (j : Nat) :
    st.clearSticky.getLsbD j = if 4 ≤ j ∧ j ≤ 7 then false else st.getLsbD j := by
  simp only [Status.clearSticky, Status.getLsbD_setFlag, show Flag.truncS.bit = 4 from rfl,
    show Flag.invS.bit = 5 from rfl, show Flag.illS.bit = 6 from rfl, show Flag.mismatchS.bit = 7 from rfl]
  by_cases h4 : j = 4 <;> by_cases h5 : j = 5 <;> by_cases h6 : j = 6 <;> by_cases h7 : j = 7 <;>
    simp [h4, h5, h6, h7]
  all_goals omega

theorem Status.getLsbD_setResult (st : Status) (sg : Bool) (j : Nat) :
    (st.setResult sg).getLsbD j = if j = 13 then sg else if j = 12 then true else st.getLsbD j := by
  simp only [Status.setResult, Status.getLsbD_setFlag]
  rfl

theorem Err.sticky_range (e : Err) : 4 ≤ e.sticky.bit ∧ e.sticky.bit ≤ 6 := by cases e <;> decide

theorem Err.code_ne_zero (e : Err) : e.code ≠ 0 := by cases e <;> decide

/-- What recording an error does to STATUS: ERR and the error's sticky bit, RES_VALID if the word was to produce RES,
and nothing else (60_exceptions R224). -/
theorem Status.getLsbD_noteError (st : Status) (e : Err) (w : Word) (j : Nat) :
    (st.noteError e w).getLsbD j =
      if j < 3 then e.code.getLsbD j else if j = e.sticky.bit then true
      else if j = 12 ∧ producesRes w = true then false else st.getLsbD j := by
  have he := e.sticky_range
  have hv : Flag.resValid.bit = 12 := rfl
  have key : ((st.setErr e.code).setFlag e.sticky true).getLsbD j =
      if j < 3 then e.code.getLsbD j else if j = e.sticky.bit then true else st.getLsbD j := by
    simp only [Status.getLsbD_setFlag, Status.getLsbD_setErr]
    by_cases h3 : j < 3
    · rw [if_neg (show ¬ j = e.sticky.bit by omega)]
      simp only [if_pos h3]
    · simp only [if_neg h3]
  cases hp : producesRes w
  · simp [Status.noteError, hp, key]
  · simp only [Status.noteError, hp, if_true, Status.getLsbD_setFlag, key, hv, and_true]
    by_cases h : j = 12
    · rw [if_pos h, if_neg (by omega), if_neg (by omega), if_pos h]
    · simp only [if_neg h]

@[simp] theorem Status.err_noteError (st : Status) (e : Err) (w : Word) : (st.noteError e w).err = e.code := by
  simp only [Status.noteError]
  split <;> simp

theorem Status.flag_noteError_sticky (st : Status) (e : Err) (w : Word) :
    (st.noteError e w).flag e.sticky = true := by
  have := e.sticky_range
  simp only [Status.flag, Status.getLsbD_noteError]
  rw [if_neg (by omega), if_pos trivial]

end Sys2Proof.Machine
end

