-- ==== Sys2Proof/Laws/Protocol.lean ====
section
/-!
SUPPORT. The common protocol: exec of any command is `conclude` of its own rule, and what a rule can do at all.
-/

namespace Sys2Proof.Machine

/-- The command's own rule, without the common protocol. -/
def ruleOf : Instr → State → RuleEnd
  | .nop => nopRule
  | .fbw1 addr data => fbwRule addr (bytesOf 1 data.toNat)
  | .fbw2 addr data => fbwRule addr (bytesOf 2 data.toNat)
  | .fbw3 addr data => fbwRule addr (bytesOf 3 data.toNat)
  | .setlen len => setlenRule len
  | .clrstat => clrstatRule
  | .extBe sg src off w => extRule sg src (.be off) w
  | .extLe sg src nc addr w p => extRule sg src (.le nc addr p) w
  | .crcInit => crcInitRule
  | .crcFeed1 data => crcFeedRule 1 data.toNat
  | .crcFeed2 data => crcFeedRule 2 data.toNat
  | .crcFeed3 data => crcFeedRule 3 data.toNat
  | .crcFeed4 data => crcFeedRule 4 data.toNat
  | .crcFeed5 data => crcFeedRule 5 data.toNat
  | .crcFeed6 data => crcFeedRule 6 data.toNat
  | .crcFeed7 data => crcFeedRule 7 data.toNat
  | .crcFeed8 data => crcFeedRule 8 data.toNat
  | .crcRun pad off count => crcRunRule pad off count
  | .crcCheck off => crcCheckRule off
  | .crcSbas => crcSbasRule
  | .flInit => flInitRule
  | .flByte data => flByteRule data
  | .flRun off count => flRunRule off count
  | .flCheck off => flCheckRule off
  | .flUbx => flUbxRule
  | .raClr => raClrRule
  | .raAppBe src off w => raAppRule src (.be off) w
  | .raAppLe src nc addr w p => raAppRule src (.le nc addr p) w
  | .raAppr w => raApprRule w
  | .raGet sg => raGetRule sg

/-- Every command is its own rule inside the common protocol, and always answers a next state. -/
theorem exec_eq (i : Instr) (s : State) : exec i s = .next (conclude (encode i) (ruleOf i s.count)) := by
  cases i <;> rfl

/-- The state a rule's end holds. -/
def RuleEnd.kept : RuleEnd → State
  | .done s => s
  | .raise _ s => s

@[simp] theorem RuleEnd.kept_done (s : State) : (RuleEnd.done s).kept = s := rfl
@[simp] theorem RuleEnd.kept_raise (e : Err) (s : State) : (RuleEnd.raise e s).kept = s := rfl
@[simp] theorem RuleEnd.andThen_done (s : State) (f : State → RuleEnd) : (RuleEnd.done s).andThen f = f s := rfl
@[simp] theorem RuleEnd.andThen_raise (e : Err) (s : State) (f : State → RuleEnd) :
    (RuleEnd.raise e s).andThen f = .raise e s := rfl

/-! ### What the end of the protocol does -/

theorem conclude_done (w : Word) (s : State) : conclude w (.done s) = (recordSuccess s).redraw := rfl

theorem conclude_raise (w : Word) (e : Err) (s : State) : conclude w (.raise e s) = (raiseError e w s).redraw := rfl

/-- A success writes ERR only. -/
theorem recordSuccess_eq (s : State) : recordSuccess s = s.setStatus (s.status.setErr 0) := rfl

/-- An error writes STATUS and ERRCMD only. -/
theorem raiseError_eq (e : Err) (w : Word) (s : State) :
    raiseError e w s = (s.setStatus (s.status.noteError e w)).setErrCmd w := rfl

section Fields

variable (w : Word) (r : RuleEnd)

@[simp] theorem conclude_fb : (conclude w r).fb = r.kept.fb := by cases r <;> rfl
@[simp] theorem conclude_flen : (conclude w r).flen = r.kept.flen := by cases r <;> rfl
@[simp] theorem conclude_gen : (conclude w r).gen = r.kept.gen := by cases r <;> rfl
@[simp] theorem conclude_crcRx : (conclude w r).crcRx = r.kept.crcRx := by cases r <;> rfl
@[simp] theorem conclude_sums : (conclude w r).sums = r.kept.sums := by cases r <;> rfl
@[simp] theorem conclude_flRx : (conclude w r).flRx = r.kept.flRx := by cases r <;> rfl
@[simp] theorem conclude_res : (conclude w r).res = r.kept.res := by cases r <;> rfl
@[simp] theorem conclude_asm : (conclude w r).asm = r.kept.asm := by cases r <;> rfl
@[simp] theorem conclude_cSeq : (conclude w r).cSeq = r.kept.cSeq := by cases r <;> rfl
@[simp] theorem conclude_port : (conclude w r).port = r.kept.port := by cases r <;> rfl
@[simp] theorem conclude_replies : (conclude w r).replies = r.kept.replies := by cases r <;> rfl

end Fields

@[simp] theorem conclude_done_status (w : Word) (s : State) :
    (conclude w (.done s)).status = s.status.setErr 0 := rfl
@[simp] theorem conclude_raise_status (w : Word) (e : Err) (s : State) :
    (conclude w (.raise e s)).status = s.status.noteError e w := rfl
@[simp] theorem conclude_done_errCmd (w : Word) (s : State) : (conclude w (.done s)).errCmd = s.errCmd := rfl
@[simp] theorem conclude_raise_errCmd (w : Word) (e : Err) (s : State) : (conclude w (.raise e s)).errCmd = w := rfl

/-! ### What a rule can do at all -/

/-- A rule makes all its checks before its first write: when it raises an error, its state is the one it was given. -/
def KeepsOnError (f : State → RuleEnd) : Prop := ∀ s e t, f s = .raise e t → t = s

theorem nopRule_keepsOnError :
    KeepsOnError nopRule := by
  intro s e t h
  cases h

theorem fbwRule_keepsOnError (addr : Nat) (bytes : List Byte) :
    KeepsOnError (fbwRule addr bytes) := by
  intro s e t h
  unfold fbwRule at h
  (repeat' split at h) <;> cases h
  all_goals rfl

theorem setlenRule_keepsOnError (len : Nat) :
    KeepsOnError (setlenRule len) := by
  intro s e t h
  unfold setlenRule at h
  (repeat' split at h) <;> cases h
  all_goals rfl

theorem clrstatRule_keepsOnError :
    KeepsOnError clrstatRule := by
  intro s e t h
  cases h

theorem extRule_keepsOnError (sg : Signedness) (src : Source) (place : FieldAt) (w : Nat) :
    KeepsOnError (extRule sg src place w) := by
  intro s e t h
  unfold extRule at h
  (repeat' split at h) <;> cases h
  all_goals rfl

theorem crcInitRule_keepsOnError :
    KeepsOnError crcInitRule := by
  intro s e t h
  cases h

theorem crcFeedRule_keepsOnError (k data : Nat) :
    KeepsOnError (crcFeedRule k data) := by
  intro s e t h
  cases h

theorem crcRunRule_keepsOnError (pad off count : Nat) :
    KeepsOnError (crcRunRule pad off count) := by
  intro s e t h
  unfold crcRunRule at h
  (repeat' split at h) <;> cases h
  all_goals rfl

theorem crcCheckRule_keepsOnError (off : Nat) :
    KeepsOnError (crcCheckRule off) := by
  intro s e t h
  unfold crcCheckRule at h
  (repeat' split at h) <;> cases h
  all_goals rfl

theorem flInitRule_keepsOnError :
    KeepsOnError flInitRule := by
  intro s e t h
  cases h

theorem flByteRule_keepsOnError (b : Byte) :
    KeepsOnError (flByteRule b) := by
  intro s e t h
  cases h

theorem flRunRule_keepsOnError (off count : Nat) :
    KeepsOnError (flRunRule off count) := by
  intro s e t h
  unfold flRunRule at h
  (repeat' split at h) <;> cases h
  all_goals rfl

theorem flCheckRule_keepsOnError (off : Nat) :
    KeepsOnError (flCheckRule off) := by
  intro s e t h
  unfold flCheckRule at h
  (repeat' split at h) <;> cases h
  all_goals rfl

theorem raClrRule_keepsOnError :
    KeepsOnError raClrRule := by
  intro s e t h
  cases h

theorem raAppRule_keepsOnError (src : Source) (place : FieldAt) (w : Nat) :
    KeepsOnError (raAppRule src place w) := by
  intro s e t h
  unfold raAppRule at h
  (repeat' split at h) <;> cases h
  all_goals rfl

theorem raApprRule_keepsOnError (w : Nat) :
    KeepsOnError (raApprRule w) := by
  intro s e t h
  unfold raApprRule at h
  (repeat' split at h) <;> cases h
  all_goals rfl

theorem raGetRule_keepsOnError (sg : Signedness) :
    KeepsOnError (raGetRule sg) := by
  intro s e t h
  unfold raGetRule at h
  (repeat' split at h) <;> cases h
  all_goals rfl

/-- Every rule that is not compound makes all its checks before its first write (60_exceptions R224, R226). -/
theorem rule_keepsOnError (i : Instr) (hs : i ≠ .crcSbas) (hu : i ≠ .flUbx) : KeepsOnError (ruleOf i) := by
  cases i with
  | nop => exact nopRule_keepsOnError
  | fbw1 => exact fbwRule_keepsOnError _ _
  | fbw2 => exact fbwRule_keepsOnError _ _
  | fbw3 => exact fbwRule_keepsOnError _ _
  | setlen => exact setlenRule_keepsOnError _
  | clrstat => exact clrstatRule_keepsOnError
  | extBe => exact extRule_keepsOnError _ _ _ _
  | extLe => exact extRule_keepsOnError _ _ _ _
  | crcInit => exact crcInitRule_keepsOnError
  | crcFeed1 => exact crcFeedRule_keepsOnError _ _
  | crcFeed2 => exact crcFeedRule_keepsOnError _ _
  | crcFeed3 => exact crcFeedRule_keepsOnError _ _
  | crcFeed4 => exact crcFeedRule_keepsOnError _ _
  | crcFeed5 => exact crcFeedRule_keepsOnError _ _
  | crcFeed6 => exact crcFeedRule_keepsOnError _ _
  | crcFeed7 => exact crcFeedRule_keepsOnError _ _
  | crcFeed8 => exact crcFeedRule_keepsOnError _ _
  | crcRun => exact crcRunRule_keepsOnError _ _ _
  | crcCheck => exact crcCheckRule_keepsOnError _
  | crcSbas => exact absurd rfl hs
  | flInit => exact flInitRule_keepsOnError
  | flByte => exact flByteRule_keepsOnError _
  | flRun => exact flRunRule_keepsOnError _ _
  | flCheck => exact flCheckRule_keepsOnError _
  | flUbx => exact absurd rfl hu
  | raClr => exact raClrRule_keepsOnError
  | raAppBe => exact raAppRule_keepsOnError _ _ _
  | raAppLe => exact raAppRule_keepsOnError _ _ _
  | raAppr => exact raApprRule_keepsOnError _
  | raGet => exact raGetRule_keepsOnError _

/-- The bookkeeping no command's own rule touches: ERRCMD, CSEQ, the host's side, the draw. -/
structure SameBooks (s t : State) : Prop where
  errCmd : t.errCmd = s.errCmd
  cSeq : t.cSeq = s.cSeq
  port : t.port = s.port
  replies : t.replies = s.replies
  draws : t.draws = s.draws

theorem SameBooks.rfl' (s : State) : SameBooks s s := ⟨rfl, rfl, rfl, rfl, rfl⟩

theorem SameBooks.trans {s t u : State} (h : SameBooks s t) (k : SameBooks t u) : SameBooks s u :=
  ⟨k.errCmd.trans h.errCmd, k.cSeq.trans h.cSeq, k.port.trans h.port, k.replies.trans h.replies,
    k.draws.trans h.draws⟩

theorem SameBooks.andThen {s : State} {r : RuleEnd} {f : State → RuleEnd} (h : SameBooks s r.kept)
    (hf : ∀ t, SameBooks t (f t).kept) : SameBooks s (r.andThen f).kept := by
  cases r with
  | done t => exact h.trans (hf t)
  | raise e t => exact h

/-! Each rule leaves the bookkeeping as it was. -/

theorem nopRule_books (s : State) : SameBooks s (nopRule s).kept := by
  constructor <;> rfl

theorem fbwRule_books (addr : Nat) (bytes : List Byte) (s : State) : SameBooks s (fbwRule addr bytes s).kept := by
  unfold fbwRule
  (repeat' split) <;> constructor <;> rfl

theorem setlenRule_books (len : Nat) (s : State) : SameBooks s (setlenRule len s).kept := by
  unfold setlenRule
  (repeat' split) <;> constructor <;> rfl

theorem clrstatRule_books (s : State) : SameBooks s (clrstatRule s).kept := by
  constructor <;> rfl

theorem extRule_books (sg : Signedness) (src : Source) (place : FieldAt) (w : Nat) (s : State) :
    SameBooks s (extRule sg src place w s).kept := by
  unfold extRule
  (repeat' split) <;> constructor <;> rfl

theorem crcInitRule_books (s : State) : SameBooks s (crcInitRule s).kept := by
  constructor <;> rfl

theorem crcFeedRule_books (k data : Nat) (s : State) : SameBooks s (crcFeedRule k data s).kept := by
  constructor <;> rfl

theorem crcRunRule_books (pad off count : Nat) (s : State) : SameBooks s (crcRunRule pad off count s).kept := by
  unfold crcRunRule
  (repeat' split) <;> constructor <;> rfl

theorem crcCheckRule_books (off : Nat) (s : State) : SameBooks s (crcCheckRule off s).kept := by
  unfold crcCheckRule
  (repeat' split) <;> constructor <;> rfl

theorem flInitRule_books (s : State) : SameBooks s (flInitRule s).kept := by
  constructor <;> rfl

theorem flByteRule_books (b : Byte) (s : State) : SameBooks s (flByteRule b s).kept := by
  constructor <;> rfl

theorem flRunRule_books (off count : Nat) (s : State) : SameBooks s (flRunRule off count s).kept := by
  unfold flRunRule
  (repeat' split) <;> constructor <;> rfl

theorem flCheckRule_books (off : Nat) (s : State) : SameBooks s (flCheckRule off s).kept := by
  unfold flCheckRule
  (repeat' split) <;> constructor <;> rfl

theorem raClrRule_books (s : State) : SameBooks s (raClrRule s).kept := by
  constructor <;> rfl

theorem raAppRule_books (src : Source) (place : FieldAt) (w : Nat) (s : State) :
    SameBooks s (raAppRule src place w s).kept := by
  unfold raAppRule
  (repeat' split) <;> constructor <;> rfl

theorem raApprRule_books (w : Nat) (s : State) : SameBooks s (raApprRule w s).kept := by
  unfold raApprRule
  (repeat' split) <;> constructor <;> rfl

theorem raGetRule_books (sg : Signedness) (s : State) : SameBooks s (raGetRule sg s).kept := by
  unfold raGetRule
  (repeat' split) <;> constructor <;> rfl

theorem crcSbasRule_books (s : State) : SameBooks s (crcSbasRule s).kept :=
  ((crcInitRule_books s).andThen (crcRunRule_books 6 0 226)).andThen (crcCheckRule_books 226)

theorem flUbxRule_books (s : State) : SameBooks s (flUbxRule s).kept := by
  unfold flUbxRule
  split
  · exact SameBooks.rfl' s
  · exact ((flInitRule_books s).andThen (flRunRule_books _ _)).andThen (flCheckRule_books _)

/-- No command's own rule touches the bookkeeping. -/
theorem rule_books (i : Instr) (s : State) : SameBooks s (ruleOf i s).kept := by
  cases i with
  | nop => exact nopRule_books _
  | fbw1 => exact fbwRule_books _ _ _
  | fbw2 => exact fbwRule_books _ _ _
  | fbw3 => exact fbwRule_books _ _ _
  | setlen => exact setlenRule_books _ _
  | clrstat => exact clrstatRule_books _
  | extBe => exact extRule_books _ _ _ _ _
  | extLe => exact extRule_books _ _ _ _ _
  | crcInit => exact crcInitRule_books _
  | crcFeed1 => exact crcFeedRule_books _ _ _
  | crcFeed2 => exact crcFeedRule_books _ _ _
  | crcFeed3 => exact crcFeedRule_books _ _ _
  | crcFeed4 => exact crcFeedRule_books _ _ _
  | crcFeed5 => exact crcFeedRule_books _ _ _
  | crcFeed6 => exact crcFeedRule_books _ _ _
  | crcFeed7 => exact crcFeedRule_books _ _ _
  | crcFeed8 => exact crcFeedRule_books _ _ _
  | crcRun => exact crcRunRule_books _ _ _ _
  | crcCheck => exact crcCheckRule_books _ _
  | crcSbas => exact crcSbasRule_books _
  | flInit => exact flInitRule_books _
  | flByte => exact flByteRule_books _ _
  | flRun => exact flRunRule_books _ _ _
  | flCheck => exact flCheckRule_books _ _
  | flUbx => exact flUbxRule_books _
  | raClr => exact raClrRule_books _
  | raAppBe => exact raAppRule_books _ _ _ _
  | raAppLe => exact raAppRule_books _ _ _ _
  | raAppr => exact raApprRule_books _ _
  | raGet => exact raGetRule_books _ _

end Sys2Proof.Machine
end

