-- ==== Sys2Proof/Laws/Crc.lean ====
section
/-!
SUPPORT. Feeding bits to the CRC24Q generator, and what the rules of the CRC commands do.
-/

namespace Sys2Proof.Machine

@[simp] theorem crcFeed_nil (g : CrcGen) : crcFeed g [] = g := rfl

@[simp] theorem crcFeed_cons (g : CrcGen) (b : Bool) (l : List Bool) :
    crcFeed g (b :: l) = crcFeed (crcBit g b) l := rfl

/-- Two feeds in a row are one feed. -/
theorem crcFeed_append (g : CrcGen) (l l' : List Bool) : crcFeed g (l ++ l') = crcFeed (crcFeed g l) l' := by
  simp [crcFeed]

/-- The number D holds after a bit is shifted in (42_crc24q R151). -/
theorem toNat_shiftIn (d : BitVec 8) (b : Bool) :
    ((d <<< 1) ^^^ (BitVec.ofBool b).setWidth 8).toNat = (2 * d.toNat + b.toNat) % 256 := by
  revert d b
  decide +kernel

/-- A bit that does not complete a byte only shifts (42_crc24q R151). -/
theorem crcBit_shift (g : CrcGen) (b : Bool) (h : g.dcnt.toNat < 7) :
    crcBit g b = ⟨g.crc, (g.d <<< 1) ^^^ (BitVec.ofBool b).setWidth 8, g.dcnt + 1⟩ := by
  simp only [crcBit, crcBitWith]
  rw [if_neg (by omega)]

/-- The eighth bit folds the byte and empties D (42_crc24q R151). -/
theorem crcBit_fold (g : CrcGen) (b : Bool) (h : g.dcnt.toNat = 7) :
    crcBit g b = ⟨fold Config.crcImpl g.crc ((g.d <<< 1) ^^^ (BitVec.ofBool b).setWidth 8), 0, 0⟩ := by
  simp only [crcBit, crcBitWith]
  rw [if_pos (by omega)]

/-- DCNT counts the bits fed, modulo 8 (42_crc24q R151). -/
theorem crcFeed_dcnt (l : List Bool) (g : CrcGen) :
    (crcFeed g l).dcnt.toNat = (g.dcnt.toNat + l.length) % 8 := by
  induction l generalizing g with
  | nil =>
    have := g.dcnt.isLt
    simp
    omega
  | cons b l ih =>
    have := g.dcnt.isLt
    rw [crcFeed_cons, ih, List.length_cons]
    by_cases h : g.dcnt.toNat = 7
    · rw [crcBit_fold g b h]
      simp
      omega
    · rw [crcBit_shift g b (by omega)]
      simp
      omega

/-- D holds the bits not folded yet, and nothing else (42_crc24q R158). -/
theorem crcBit_d_lt (g : CrcGen) (b : Bool) (h : g.d.toNat < 2 ^ g.dcnt.toNat) :
    (crcBit g b).d.toNat < 2 ^ (crcBit g b).dcnt.toNat := by
  have hd := g.dcnt.isLt
  by_cases h7 : g.dcnt.toNat = 7
  · rw [crcBit_fold g b h7]
    simp
  · rw [crcBit_shift g b (by omega)]
    simp only
    have hc : (g.dcnt + 1).toNat = g.dcnt.toNat + 1 := by
      rw [BitVec.toNat_add]
      simp
      omega
    rw [toNat_shiftIn, hc, pow_succ]
    have := b.toNat_lt
    have := Nat.mod_le (2 * g.d.toNat + b.toNat) 256
    omega

theorem crcFeed_d_lt (l : List Bool) (g : CrcGen) (h : g.d.toNat < 2 ^ g.dcnt.toNat) :
    (crcFeed g l).d.toNat < 2 ^ (crcFeed g l).dcnt.toNat := by
  induction l generalizing g with
  | nil => exact h
  | cons b l ih => exact ih _ (crcBit_d_lt g b h)

/-! ### What the rules do, and when they raise an error -/

section Restart

variable (g : CrcGen) (s : State)

@[simp] theorem restartCrc_fb : (restartCrc g s).fb = s.fb := rfl
@[simp] theorem restartCrc_flen : (restartCrc g s).flen = s.flen := rfl
@[simp] theorem restartCrc_gen : (restartCrc g s).gen = g := rfl
@[simp] theorem restartCrc_crcRx : (restartCrc g s).crcRx = s.crcRx := rfl
@[simp] theorem restartCrc_sums : (restartCrc g s).sums = s.sums := rfl
@[simp] theorem restartCrc_flRx : (restartCrc g s).flRx = s.flRx := rfl
@[simp] theorem restartCrc_res : (restartCrc g s).res = s.res := rfl
@[simp] theorem restartCrc_asm : (restartCrc g s).asm = s.asm := rfl
@[simp] theorem restartCrc_status : (restartCrc g s).status = s.status.setCrcCheck none := rfl
@[simp] theorem restartCrc_port : (restartCrc g s).port = s.port := rfl
@[simp] theorem restartCrc_replies : (restartCrc g s).replies = s.replies := rfl
@[simp] theorem fbByte_restartCrc : (restartCrc g s).fbByte = s.fbByte := rfl

theorem restartCrc_books : SameBooks s (restartCrc g s) := ⟨rfl, rfl, rfl, rfl, rfl⟩

/-- The second of two restarts decides the generator, and STATUS is as after one. -/
theorem restartCrc_restartCrc (g' : CrcGen) : restartCrc g' (restartCrc g s) = restartCrc g' s := by
  have : (s.status.setCrcCheck none).setCrcCheck none = s.status.setCrcCheck none := by
    apply Status.ext_bits
    intro j _
    simp only [Status.getLsbD_setCrcCheck]
    split_ifs <;> rfl
  simp only [restartCrc, State.setGen, State.setStatus, this]

end Restart

section Compare

variable (rx : BitVec 24) (s : State)

@[simp] theorem compareCrc_fb : (compareCrc rx s).fb = s.fb := rfl
@[simp] theorem compareCrc_flen : (compareCrc rx s).flen = s.flen := rfl
@[simp] theorem compareCrc_gen : (compareCrc rx s).gen = s.gen := rfl
@[simp] theorem compareCrc_crcRx : (compareCrc rx s).crcRx = rx := rfl
@[simp] theorem compareCrc_sums : (compareCrc rx s).sums = s.sums := rfl
@[simp] theorem compareCrc_flRx : (compareCrc rx s).flRx = s.flRx := rfl
@[simp] theorem compareCrc_res : (compareCrc rx s).res = s.res := rfl
@[simp] theorem compareCrc_asm : (compareCrc rx s).asm = s.asm := rfl
@[simp] theorem compareCrc_status : (compareCrc rx s).status =
    (s.status.setCrcCheck (some (rx == s.gen.crc))).noteMismatch (rx == s.gen.crc) := rfl
@[simp] theorem compareCrc_port : (compareCrc rx s).port = s.port := rfl
@[simp] theorem compareCrc_replies : (compareCrc rx s).replies = s.replies := rfl

theorem compareCrc_books : SameBooks s (compareCrc rx s) := ⟨rfl, rfl, rfl, rfl, rfl⟩

end Compare

/-- CRC_RUN feeds its window, or finds it past the frame (42_crc24q R159). -/
theorem crcRunRule_eq (pad off count : Nat) (s : State) :
    crcRunRule pad off count s =
      if off + count ≤ 8 * s.flen.toNat then
        .done (restartCrc (crcFeed s.gen (List.replicate pad false ++ streamBits s.fbByte off count)) s)
      else .raise .truncated s := by
  by_cases h : s.frameHasBits off count = true
  · rw [if_pos ((frameHasBits_iff _ _ _).1 h)]
    simp [crcRunRule, h]
  · rw [if_neg fun k => h ((frameHasBits_iff _ _ _).2 k)]
    simp [crcRunRule, h]

/-- CRC_CHECK compares, or finds bits unfolded, or finds the trailer past the frame (42_crc24q R160). -/
theorem crcCheckRule_eq (off : Nat) (s : State) :
    crcCheckRule off s =
      if s.gen.dcnt ≠ 0 then .raise .invalidFieldSpec s
      else if off + 24 ≤ 8 * s.flen.toNat then .done (compareCrc (BitVec.ofNat 24 (streamField s.fbByte off 24)) s)
      else .raise .truncated s := by
  by_cases hd : s.gen.dcnt = 0
  · by_cases h : s.frameHasBits off 24 = true
    · rw [if_neg (by simp [hd]), if_pos ((frameHasBits_iff _ _ _).1 h)]
      simp [crcCheckRule, hd, h]
    · rw [if_neg (by simp [hd]), if_neg fun k => h ((frameHasBits_iff _ _ _).2 k)]
      simp [crcCheckRule, hd, h]
  · rw [if_pos hd, crcCheckRule, if_pos (by simpa using hd)]

/-- CRC_SBAS computes and compares on a frame of 32 bytes, computes only on one of 29, and clears only on a shorter one
(42_crc24q R161, 60_exceptions R226). -/
theorem crcSbasRule_eq (g : CrcGen) (s : State)
    (hg : g = crcFeed ⟨0, 0, 0⟩ (List.replicate 6 false ++ streamBits s.fbByte 0 226)) :
    crcSbasRule s =
      if s.flen.toNat < 29 then .raise .truncated (restartCrc ⟨0, 0, 0⟩ s)
      else if s.flen.toNat < 32 then .raise .truncated (restartCrc g s)
      else .done (compareCrc (BitVec.ofNat 24 (streamField s.fbByte 226 24)) (restartCrc g s)) := by
  have hd : g.dcnt = 0 := by
    apply BitVec.eq_of_toNat_eq
    rw [hg, crcFeed_dcnt]
    simp
  simp only [crcSbasRule, crcInitRule, RuleEnd.andThen_done, crcRunRule_eq, restartCrc_flen, restartCrc_gen,
    fbByte_restartCrc, ← hg, restartCrc_restartCrc]
  by_cases h29 : s.flen.toNat < 29
  · rw [if_pos h29, if_neg (by omega), RuleEnd.andThen_raise]
  · rw [if_neg h29, if_pos (by omega), RuleEnd.andThen_done, crcCheckRule_eq, restartCrc_gen, if_neg (by simp [hd]),
      restartCrc_flen, fbByte_restartCrc]
    by_cases h32 : s.flen.toNat < 32
    · rw [if_neg (by omega), if_pos h32]
    · rw [if_pos (by omega), if_neg h32]

end Sys2Proof.Machine
end

