-- ==== Sys2Proof/Laws/Decode.lean ====
section
/-!
SUPPORT. The four fields of a command word, and of the words the encoder writes.
-/

namespace Sys2Proof

/-- The number a command word is. -/
theorem toNat_commandWord (op f a b : Nat) (ho : op < 2 ^ 8) (hf : f < 2 ^ 8) (ha : a < 2 ^ 24) (hb : b < 2 ^ 24) :
    (commandWord op f a b).toNat = op * 2 ^ 56 + f * 2 ^ 48 + a * 2 ^ 24 + b := by
  rw [commandWord, BitVec.toNat_ofNat]
  apply Nat.mod_eq_of_lt
  omega

theorem opField_commandWord (op f a b : Nat) (ho : op < 2 ^ 8) (hf : f < 2 ^ 8) (ha : a < 2 ^ 24)
    (hb : b < 2 ^ 24) : opField (commandWord op f a b) = op := by
  simp only [opField, bitField, toNat_commandWord op f a b ho hf ha hb]
  omega

theorem fField_commandWord (op f a b : Nat) (ho : op < 2 ^ 8) (hf : f < 2 ^ 8) (ha : a < 2 ^ 24)
    (hb : b < 2 ^ 24) : fField (commandWord op f a b) = f := by
  simp only [fField, bitField, toNat_commandWord op f a b ho hf ha hb]
  omega

theorem aField_commandWord (op f a b : Nat) (ho : op < 2 ^ 8) (hf : f < 2 ^ 8) (ha : a < 2 ^ 24)
    (hb : b < 2 ^ 24) : aField (commandWord op f a b) = a := by
  simp only [aField, bitField, toNat_commandWord op f a b ho hf ha hb]
  omega

theorem bField_commandWord (op f a b : Nat) (ho : op < 2 ^ 8) (hf : f < 2 ^ 8) (ha : a < 2 ^ 24)
    (hb : b < 2 ^ 24) : bField (commandWord op f a b) = b := by
  simp only [bField, bitField, toNat_commandWord op f a b ho hf ha hb]
  omega

/-- A word is determined by its four fields. -/
theorem commandWord_fields (w : Word) : commandWord (opField w) (fField w) (aField w) (bField w) = w := by
  have h := w.isLt
  apply BitVec.eq_of_toNat_eq
  rw [commandWord, BitVec.toNat_ofNat]
  simp only [opField, fField, aField, bField, bitField]
  omega

theorem opField_lt (w : Word) : opField w < 2 ^ 8 := by
  simp only [opField, bitField]
  omega

theorem fField_lt (w : Word) : fField w < 2 ^ 8 := by
  simp only [fField, bitField]
  omega

theorem aField_lt (w : Word) : aField w < 2 ^ 24 := by
  simp only [aField, bitField]
  omega

theorem bField_lt (w : Word) : bField w < 2 ^ 24 := by
  simp only [bField, bitField]
  omega

theorem Signedness.code_lt (sg : Signedness) : sg.code < 2 := by cases sg <;> decide
theorem Source.code_lt (src : Source) : src.code < 2 := by cases src <;> decide
theorem Container.code_lt (nc : Container) : nc.code < 4 := by cases nc <;> decide

@[simp] theorem Signedness.ofCode_code (sg : Signedness) : Signedness.ofCode sg.code = sg := by cases sg <;> rfl
@[simp] theorem Source.ofCode_code (src : Source) : Source.ofCode src.code = src := by cases src <;> rfl
@[simp] theorem Container.ofCode_code (nc : Container) : Container.ofCode nc.code = nc := by cases nc <;> rfl

theorem fOfBe_lt (sg : Signedness) (src : Source) : fOfBe sg src < 2 ^ 8 := by
  have := sg.code_lt
  have := src.code_lt
  simp only [fOfBe]
  omega

theorem fOfLe_lt (sg : Signedness) (src : Source) (nc : Container) : fOfLe sg src nc < 2 ^ 8 := by
  have := sg.code_lt
  have := src.code_lt
  have := nc.code_lt
  simp only [fOfLe]
  omega

end Sys2Proof
end

