-- ==== Sys2Proof/Laws/Fletcher.lean ====
section
/-!
SUPPORT. Feeding bytes to the Fletcher-8 engine, and what the rules of its commands do.
-/

namespace Sys2Proof.Machine

@[simp] theorem flFeed_nil (c : FlSums) : flFeed c [] = c := rfl

@[simp] theorem flFeed_cons (c : FlSums) (b : Byte) (l : List Byte) : flFeed c (b :: l) = flFeed (flByte c b) l := rfl

/-- Two feeds in a row are one feed. -/
theorem flFeed_append (c : FlSums) (l l' : List Byte) : flFeed c (l ++ l') = flFeed (flFeed c l) l' := by
  simp [flFeed]

/-- CK_A after one byte, as a number (43_fletcher8 R180). -/
theorem flByte_ckA (c : FlSums) (b : Byte) : (flByte c b).ckA.toNat = (c.ckA.toNat + b.toNat) % 256 := by
  simp [flByte]

/-- CK_B after one byte adds the updated CK_A (43_fletcher8 R180). -/
theorem flByte_ckB (c : FlSums) (b : Byte) :
    (flByte c b).ckB.toNat = (c.ckB.toNat + (flByte c b).ckA.toNat) % 256 := by
  simp [flByte]

/-- CK_A after a region is its byte sum, modulo 256 (43_fletcher8 R188). -/
theorem flFeed_ckA (l : List Byte) (c : FlSums) :
    (flFeed c l).ckA.toNat = (c.ckA.toNat + (l.map BitVec.toNat).sum) % 256 := by
  induction l generalizing c with
  | nil =>
    have := c.ckA.isLt
    simp
    omega
  | cons b l ih =>
    rw [flFeed_cons, ih, flByte_ckA, List.map_cons, List.sum_cons]
    omega

/-! ### What the rules do, and when they raise an error -/

section Restart

variable (c : FlSums) (s : State)

@[simp] theorem restartFl_fb : (restartFl c s).fb = s.fb := rfl
@[simp] theorem restartFl_flen : (restartFl c s).flen = s.flen := rfl
@[simp] theorem restartFl_gen : (restartFl c s).gen = s.gen := rfl
@[simp] theorem restartFl_crcRx : (restartFl c s).crcRx = s.crcRx := rfl
@[simp] theorem restartFl_sums : (restartFl c s).sums = c := rfl
@[simp] theorem restartFl_flRx : (restartFl c s).flRx = s.flRx := rfl
@[simp] theorem restartFl_res : (restartFl c s).res = s.res := rfl
@[simp] theorem restartFl_asm : (restartFl c s).asm = s.asm := rfl
@[simp] theorem restartFl_status : (restartFl c s).status = s.status.setFlCheck none := rfl
@[simp] theorem restartFl_port : (restartFl c s).port = s.port := rfl
@[simp] theorem restartFl_replies : (restartFl c s).replies = s.replies := rfl
@[simp] theorem fbByte_restartFl : (restartFl c s).fbByte = s.fbByte := rfl

theorem restartFl_books : SameBooks s (restartFl c s) := ⟨rfl, rfl, rfl, rfl, rfl⟩

/-- The second of two restarts decides the sums, and STATUS is as after one. -/
theorem restartFl_restartFl (c' : FlSums) : restartFl c' (restartFl c s) = restartFl c' s := by
  have : (s.status.setFlCheck none).setFlCheck none = s.status.setFlCheck none := by
    apply Status.ext_bits
    intro j _
    simp only [Status.getLsbD_setFlCheck]
    split_ifs <;> rfl
  simp only [restartFl, State.setSums, State.setStatus, this]

end Restart

/-- FL_RUN feeds its region, or finds it past the frame (43_fletcher8 R183). -/
theorem flRunRule_eq (off count : Nat) (s : State) :
    flRunRule off count s =
      if off + count ≤ s.flen.toNat then .done (restartFl (flFeed s.sums (memRead s.fbByte off count)) s)
      else .raise .truncated s := by
  by_cases h : s.frameHas off count = true
  · rw [if_pos ((frameHas_iff _ _ _).1 h)]
    simp [flRunRule, h]
  · rw [if_neg fun k => h ((frameHas_iff _ _ _).2 k)]
    simp [flRunRule, h]

/-- FL_CHECK compares, or finds the trailer past the frame (43_fletcher8 R185). -/
theorem flCheckRule_eq (off : Nat) (s : State) :
    flCheckRule off s =
      if off + 2 ≤ s.flen.toNat then
        .done ((s.setFlRx (BitVec.ofNat 16 (loadLE s.fbByte off 2))).setStatus
          (flOutcome (s.fbByte off) (s.fbByte (off + 1)) s))
      else .raise .truncated s := by
  by_cases h : s.frameHas off 2 = true
  · rw [if_pos ((frameHas_iff _ _ _).1 h)]
    simp [flCheckRule, h]
  · rw [if_neg fun k => h ((frameHas_iff _ _ _).2 k)]
    simp [flCheckRule, h]

/-- FL_UBX on frames without a length field, without the whole region, without the trailer, and on whole ones
(43_fletcher8 R186, 60_exceptions R226). -/
theorem flUbxRule_eq (c : FlSums) (s : State)
    (hc : c = flFeed ⟨0, 0⟩ (memRead s.fbByte 2 (4 + ubxLength s))) :
    flUbxRule s =
      if s.flen.toNat < 6 then .raise .truncated s
      else if s.flen.toNat < 6 + ubxLength s then .raise .truncated (restartFl ⟨0, 0⟩ s)
      else flCheckRule (6 + ubxLength s) (restartFl c s) := by
  by_cases h6 : s.flen.toNat < 6
  · rw [if_pos h6]
    have : s.frameHas 0 6 = false := by
      rw [Bool.eq_false_iff, Ne, frameHas_iff]
      omega
    simp [flUbxRule, this]
  · rw [if_neg h6]
    have h0 : s.frameHas 0 6 = true := (frameHas_iff _ _ _).2 (by omega)
    simp only [flUbxRule, h0, Bool.not_true, Bool.false_eq_true, if_false, flInitRule, RuleEnd.andThen_done,
      flRunRule_eq, restartFl_flen, restartFl_sums, fbByte_restartFl, ← hc, restartFl_restartFl]
    by_cases hr : s.flen.toNat < 6 + ubxLength s
    · rw [if_pos hr, if_neg (by omega), RuleEnd.andThen_raise]
    · rw [if_neg hr, if_pos (by omega), RuleEnd.andThen_done]

end Sys2Proof.Machine
end

