-- ==== Sys2Proof/Laws/Memory.lean ====
section
/-!
SUPPORT. Reads and writes of frame-buffer bytes: a read after a write, and the canonical form kept.
-/

namespace Sys2Proof.Machine

/-- A read after a write gives the byte written there, and every other address reads as before. -/
theorem Memory.read_write (m : Memory) (a x : Nat) (v : Byte) :
    (Memory.write m a v).read x = if x = a then some v else Memory.read m x := by
  induction m with
  | nil => simp [Memory.write, Memory.read, eq_comm]
  | cons c rest ih =>
    obtain ⟨y, b⟩ := c
    simp only [Memory.write]
    by_cases h1 : a < y
    · rw [if_pos h1]
      by_cases hx : x = a
      · simp [Memory.read, hx]
      · simp [Memory.read, hx, Ne.symm hx]
    · rw [if_neg h1]
      by_cases h2 : a = y
      · subst h2
        by_cases hx : x = a
        · simp [Memory.read, hx]
        · simp [Memory.read, hx, Ne.symm hx]
      · rw [if_neg h2]
        by_cases hy : y = x
        · subst hy
          simp [Memory.read, Ne.symm h2]
        · simp [Memory.read, hy, ih]

/-- The bytes written by a run of writes, and every other address as before. -/
theorem Memory.read_writeBytes (bytes : List Byte) (m : Memory) (a x : Nat) :
    (Memory.writeBytes m a bytes).read x =
      if a ≤ x ∧ x < a + bytes.length then bytes[x - a]? else Memory.read m x := by
  induction bytes generalizing m a with
  | nil =>
    rw [Memory.writeBytes, if_neg]
    simp
  | cons v rest ih =>
    simp only [Memory.writeBytes, ih, Memory.read_write, List.length_cons]
    by_cases hx : x = a
    · subst hx
      rw [if_neg (by omega), if_pos rfl, if_pos (by omega)]
      simp
    · by_cases hin : a ≤ x ∧ x < a + (rest.length + 1)
      · obtain ⟨k, hk⟩ : ∃ k, x = a + 1 + k := ⟨x - a - 1, by omega⟩
        subst hk
        rw [if_pos (by omega), if_pos (by omega), show a + 1 + k - a = k + 1 by omega,
          show a + 1 + k - (a + 1) = k by omega]
        simp
      · rw [if_neg (by omega), if_neg hx, if_neg hin]

/-- The addresses of a memory after a write are the one written and those of before. -/
theorem Memory.mem_write (m : Memory) (a : Nat) (v : Byte) (c : Host.Cell) (h : c ∈ Memory.write m a v) :
    c = (a, v) ∨ c ∈ m := by
  induction m with
  | nil => simpa [Memory.write] using h
  | cons d rest ih =>
    obtain ⟨y, b⟩ := d
    simp only [Memory.write] at h
    split_ifs at h <;> simp at h <;> grind

/-- A write keeps the canonical form. -/
theorem Memory.wf_write (m : Memory) (a : Nat) (v : Byte) (h : Memory.wf m) : Memory.wf (Memory.write m a v) := by
  induction m with
  | nil => simp [Memory.write, Memory.wf]
  | cons d rest ih =>
    obtain ⟨y, b⟩ := d
    obtain ⟨hy, hr⟩ := List.pairwise_cons.1 h
    simp only [Memory.write]
    split_ifs with h1 h2
    · refine List.pairwise_cons.2 ⟨?_, h⟩
      intro c hc
      rcases List.mem_cons.1 hc with rfl | hc
      · exact h1
      · exact Nat.lt_trans h1 (hy c hc)
    · subst h2
      exact List.pairwise_cons.2 ⟨hy, hr⟩
    · refine List.pairwise_cons.2 ⟨?_, ih hr⟩
      intro c hc
      rcases Memory.mem_write rest a v c hc with rfl | hc
      · show y < a
        omega
      · exact hy c hc

/-- A run of writes keeps the canonical form. -/
theorem Memory.wf_writeBytes (bytes : List Byte) (m : Memory) (a : Nat) (h : Memory.wf m) :
    Memory.wf (Memory.writeBytes m a bytes) := by
  induction bytes generalizing m a with
  | nil => exact h
  | cons v rest ih => exact ih _ _ (Memory.wf_write m a v h)

/-- Every cell after a run of writes lies in the written span or was there before. -/
theorem Memory.mem_writeBytes (bytes : List Byte) (m : Memory) (a : Nat) (c : Host.Cell)
    (h : c ∈ Memory.writeBytes m a bytes) : (a ≤ c.1 ∧ c.1 < a + bytes.length) ∨ c ∈ m := by
  induction bytes generalizing m a with
  | nil => exact .inr h
  | cons v rest ih =>
    rw [List.length_cons]
    rcases ih _ _ h with h1 | h1
    · left
      omega
    · rcases Memory.mem_write m a v c h1 with rfl | h2
      · left
        simp
      · exact .inr h2

/-- Canonical memories that read alike are equal: the list is determined by what it reads as. -/
theorem Memory.eq_of_read (m m' : Memory) (h : Memory.wf m) (h' : Memory.wf m')
    (hr : ∀ a, Memory.read m a = Memory.read m' a) : m = m' := by
  have low : ∀ (r : Memory) (x : Nat), (∀ c ∈ r, x < c.1) → Memory.read r x = none := by
    intro r x hx
    induction r with
    | nil => rfl
    | cons c r ih =>
      have hc := hx c (by simp)
      simp only [Memory.read]
      rw [if_neg (by omega)]
      exact ih fun d hd => hx d (by simp [hd])
  induction m generalizing m' with
  | nil =>
    cases m' with
    | nil => rfl
    | cons c r => simpa [Memory.read] using hr c.1
  | cons c r ih =>
    obtain ⟨x, b⟩ := c
    obtain ⟨hx, hrw⟩ := List.pairwise_cons.1 h
    cases m' with
    | nil => simpa [Memory.read] using hr x
    | cons c' r' =>
      obtain ⟨x', b'⟩ := c'
      obtain ⟨hx', hrw'⟩ := List.pairwise_cons.1 h'
      have e : x = x' := by
        have e1 := hr x
        have e2 := hr x'
        simp only [Memory.read, if_true] at e1 e2
        by_contra hne
        rw [if_neg (fun hh => hne hh.symm)] at e1
        rw [if_neg hne] at e2
        by_cases hlt : x < x'
        · rw [low r' x fun d hd => Nat.lt_trans hlt (hx' d hd)] at e1
          cases e1
        · rw [low r x' fun d hd => Nat.lt_trans (by omega) (hx d hd)] at e2
          cases e2
      subst e
      have eb : b = b' := by simpa [Memory.read] using hr x
      subst eb
      rw [ih r' hrw hrw']
      intro a
      by_cases ha : a = x
      · subst ha
        rw [low r a hx, low r' a hx']
      · simpa [Memory.read, Ne.symm ha] using hr a

end Sys2Proof.Machine
end

