-- ==== Sys2Proof/Laws/PerInstr.lean ====
section
/-!
SUPPORT. Statements made of every instruction, one lemma per constructor of Instr.
-/

namespace Sys2Proof.Laws.Opcode

/-- The OP field of a well-formed command's word is the command's opcode (30_encoding R82, R94). -/
def Statement (i : Instr) : Prop := i.wf = true → opField (encode i) = i.opcode

/-- The OP field of a word written with fields in range. -/
theorem of_fields (op f a b : Nat) (ho : op < 2 ^ 8) (hf : f < 2 ^ 8) (ha : a < 2 ^ 24) (hb : b < 2 ^ 24) :
    opField (commandWord op f a b) = op := opField_commandWord op f a b ho hf ha hb

theorem nop : Statement (.nop) := by
  intro _
  decide

theorem fbw1 (addr : Nat) (data : BitVec 8) : Statement (.fbw1 addr data) := by
  intro h
  simp only [Instr.wf, decide_eq_true_eq, fits24, fitsW, fitsP, fitsPad] at h
  have hd := data.isLt
  exact of_fields _ _ _ _ (by decide) (by omega) (by omega) (by omega)

theorem fbw2 (addr : Nat) (data : BitVec 16) : Statement (.fbw2 addr data) := by
  intro h
  simp only [Instr.wf, decide_eq_true_eq, fits24, fitsW, fitsP, fitsPad] at h
  have hd := data.isLt
  exact of_fields _ _ _ _ (by decide) (by omega) (by omega) (by omega)

theorem fbw3 (addr : Nat) (data : BitVec 24) : Statement (.fbw3 addr data) := by
  intro h
  simp only [Instr.wf, decide_eq_true_eq, fits24, fitsW, fitsP, fitsPad] at h
  have hd := data.isLt
  exact of_fields _ _ _ _ (by decide) (by omega) (by omega) (by omega)

theorem setlen (len : Nat) : Statement (.setlen len) := by
  intro h
  simp only [Instr.wf, decide_eq_true_eq, fits24, fitsW, fitsP, fitsPad] at h
  exact of_fields _ _ _ _ (by decide) (by omega) (by omega) (by omega)

theorem clrstat : Statement (.clrstat) := by
  intro _
  decide

theorem extBe (sg : Signedness) (src : Source) (off : Nat) (w : Nat) : Statement (.extBe sg src off w) := by
  intro h
  simp only [Instr.wf, decide_eq_true_eq, fits24, fitsW, fitsP, fitsPad] at h
  exact of_fields _ _ _ _ (by decide) (fOfBe_lt _ _) (by omega) (by omega)

theorem extLe (sg : Signedness) (src : Source) (nc : Container) (addr : Nat) (w : Nat) (p : Nat) :
    Statement (.extLe sg src nc addr w p) := by
  intro h
  simp only [Instr.wf, decide_eq_true_eq, fits24, fitsW, fitsP, fitsPad] at h
  exact of_fields _ _ _ _ (by decide) (fOfLe_lt _ _ _) (by omega) (by omega)

theorem crcInit : Statement (.crcInit) := by
  intro _
  decide

theorem crcFeed1 (data : BitVec 1) : Statement (.crcFeed1 data) := by
  intro h
  have hd := data.isLt
  exact of_fields _ _ _ _ (by decide) (by decide) (by decide) (by omega)

theorem crcFeed2 (data : BitVec 2) : Statement (.crcFeed2 data) := by
  intro h
  have hd := data.isLt
  exact of_fields _ _ _ _ (by decide) (by decide) (by decide) (by omega)

theorem crcFeed3 (data : BitVec 3) : Statement (.crcFeed3 data) := by
  intro h
  have hd := data.isLt
  exact of_fields _ _ _ _ (by decide) (by decide) (by decide) (by omega)

theorem crcFeed4 (data : BitVec 4) : Statement (.crcFeed4 data) := by
  intro h
  have hd := data.isLt
  exact of_fields _ _ _ _ (by decide) (by decide) (by decide) (by omega)

theorem crcFeed5 (data : BitVec 5) : Statement (.crcFeed5 data) := by
  intro h
  have hd := data.isLt
  exact of_fields _ _ _ _ (by decide) (by decide) (by decide) (by omega)

theorem crcFeed6 (data : BitVec 6) : Statement (.crcFeed6 data) := by
  intro h
  have hd := data.isLt
  exact of_fields _ _ _ _ (by decide) (by decide) (by decide) (by omega)

theorem crcFeed7 (data : BitVec 7) : Statement (.crcFeed7 data) := by
  intro h
  have hd := data.isLt
  exact of_fields _ _ _ _ (by decide) (by decide) (by decide) (by omega)

theorem crcFeed8 (data : BitVec 8) : Statement (.crcFeed8 data) := by
  intro h
  have hd := data.isLt
  exact of_fields _ _ _ _ (by decide) (by decide) (by decide) (by omega)

theorem crcRun (pad : Nat) (off : Nat) (count : Nat) : Statement (.crcRun pad off count) := by
  intro h
  simp only [Instr.wf, decide_eq_true_eq, fits24, fitsW, fitsP, fitsPad] at h
  exact of_fields _ _ _ _ (by decide) (by omega) (by omega) (by omega)

theorem crcCheck (off : Nat) : Statement (.crcCheck off) := by
  intro h
  simp only [Instr.wf, decide_eq_true_eq, fits24, fitsW, fitsP, fitsPad] at h
  exact of_fields _ _ _ _ (by decide) (by omega) (by omega) (by omega)

theorem crcSbas : Statement (.crcSbas) := by
  intro _
  decide

theorem flInit : Statement (.flInit) := by
  intro _
  decide

theorem flByte (data : BitVec 8) : Statement (.flByte data) := by
  intro h
  have hd := data.isLt
  exact of_fields _ _ _ _ (by decide) (by decide) (by decide) (by omega)

theorem flRun (off : Nat) (count : Nat) : Statement (.flRun off count) := by
  intro h
  simp only [Instr.wf, decide_eq_true_eq, fits24, fitsW, fitsP, fitsPad] at h
  exact of_fields _ _ _ _ (by decide) (by omega) (by omega) (by omega)

theorem flCheck (off : Nat) : Statement (.flCheck off) := by
  intro h
  simp only [Instr.wf, decide_eq_true_eq, fits24, fitsW, fitsP, fitsPad] at h
  exact of_fields _ _ _ _ (by decide) (by omega) (by omega) (by omega)

theorem flUbx : Statement (.flUbx) := by
  intro _
  decide

theorem raClr : Statement (.raClr) := by
  intro _
  decide

theorem raAppBe (src : Source) (off : Nat) (w : Nat) : Statement (.raAppBe src off w) := by
  intro h
  simp only [Instr.wf, decide_eq_true_eq, fits24, fitsW, fitsP, fitsPad] at h
  exact of_fields _ _ _ _ (by decide) (fOfBe_lt _ _) (by omega) (by omega)

theorem raAppLe (src : Source) (nc : Container) (addr : Nat) (w : Nat) (p : Nat) :
    Statement (.raAppLe src nc addr w p) := by
  intro h
  simp only [Instr.wf, decide_eq_true_eq, fits24, fitsW, fitsP, fitsPad] at h
  exact of_fields _ _ _ _ (by decide) (fOfLe_lt _ _ _) (by omega) (by omega)

theorem raAppr (w : Nat) : Statement (.raAppr w) := by
  intro h
  simp only [Instr.wf, decide_eq_true_eq, fits24, fitsW, fitsP, fitsPad] at h
  exact of_fields _ _ _ _ (by decide) (by omega) (by omega) (by omega)

theorem raGet (sg : Signedness) : Statement (.raGet sg) := by
  intro h
  have hs := sg.code_lt
  exact of_fields _ _ _ _ (by decide) (by omega) (by decide) (by decide)

end Sys2Proof.Laws.Opcode

namespace Sys2Proof

/-- The OP field of a well-formed command's word is the command's opcode (30_encoding R82, R94). -/
theorem opField_encode (i : Instr) (h : i.wf = true) : opField (encode i) = i.opcode := by
  cases i with
  | nop => exact Laws.Opcode.nop h
  | fbw1 => exact Laws.Opcode.fbw1 _ _ h
  | fbw2 => exact Laws.Opcode.fbw2 _ _ h
  | fbw3 => exact Laws.Opcode.fbw3 _ _ h
  | setlen => exact Laws.Opcode.setlen _ h
  | clrstat => exact Laws.Opcode.clrstat h
  | extBe => exact Laws.Opcode.extBe _ _ _ _ h
  | extLe => exact Laws.Opcode.extLe _ _ _ _ _ _ h
  | crcInit => exact Laws.Opcode.crcInit h
  | crcFeed1 => exact Laws.Opcode.crcFeed1 _ h
  | crcFeed2 => exact Laws.Opcode.crcFeed2 _ h
  | crcFeed3 => exact Laws.Opcode.crcFeed3 _ h
  | crcFeed4 => exact Laws.Opcode.crcFeed4 _ h
  | crcFeed5 => exact Laws.Opcode.crcFeed5 _ h
  | crcFeed6 => exact Laws.Opcode.crcFeed6 _ h
  | crcFeed7 => exact Laws.Opcode.crcFeed7 _ h
  | crcFeed8 => exact Laws.Opcode.crcFeed8 _ h
  | crcRun => exact Laws.Opcode.crcRun _ _ _ h
  | crcCheck => exact Laws.Opcode.crcCheck _ h
  | crcSbas => exact Laws.Opcode.crcSbas h
  | flInit => exact Laws.Opcode.flInit h
  | flByte => exact Laws.Opcode.flByte _ h
  | flRun => exact Laws.Opcode.flRun _ _ h
  | flCheck => exact Laws.Opcode.flCheck _ h
  | flUbx => exact Laws.Opcode.flUbx h
  | raClr => exact Laws.Opcode.raClr h
  | raAppBe => exact Laws.Opcode.raAppBe _ _ _ h
  | raAppLe => exact Laws.Opcode.raAppLe _ _ _ _ _ h
  | raAppr => exact Laws.Opcode.raAppr _ h
  | raGet => exact Laws.Opcode.raGet _ h

end Sys2Proof
end

