-- ==== Sys2Proof/Laws/Reassembly.lean ====
section
/-!
SUPPORT. The reassembly accumulator and its left-aligned view, bit by bit.
-/

namespace Sys2Proof.Machine

/-- Bit j of RA after an append: the chunk below, the earlier bits above it (44_reassembly R202). -/
theorem getLsbD_appendChunk (u : Reasm) (raw w j : Nat) (hraw : raw < 2 ^ w) (hj : j < 128) :
    (appendChunk u raw w).ra.getLsbD j = if j < w then raw.testBit j else u.ra.getLsbD (j - w) := by
  simp only [appendChunk, BitVec.getLsbD_or, BitVec.getLsbD_shiftLeft, BitVec.getLsbD_ofNat, hj, decide_true,
    Bool.true_and]
  by_cases h : j < w
  · simp [h]
  · have hz : raw.testBit j = false :=
      Nat.testBit_lt_two_pow (Nat.lt_of_lt_of_le hraw (Nat.pow_le_pow_right (by omega) (by omega)))
    simp [h, hz]

/-- RL after an append that fits (44_reassembly R202). -/
theorem rl_appendChunk (u : Reasm) (raw w : Nat) (h : u.rl.toNat + w ≤ 128) :
    (appendChunk u raw w).rl.toNat = u.rl.toNat + w := by
  simp only [appendChunk, BitVec.toNat_ofNat]
  omega

theorem chunkFits_iff (u : Reasm) (w : Nat) :
    chunkFits u w = true ↔ (1 ≤ w ∧ w ≤ 64) ∧ u.rl.toNat + w ≤ 128 := by
  rw [chunkFits, Bool.and_eq_true, widthOK_iff]
  exact and_congr_right' decide_eq_true_iff

/-- A byte of RB, bit by bit (20_memory R63). -/
theorem getLsbD_rbByte (u : Reasm) (i j : Nat) (hj : j < 8) :
    (rbByte u i).getLsbD j = (rbView u).getLsbD (120 - 8 * i + j) := by
  simp [rbByte, hj]

end Sys2Proof.Machine
end

