-- ==== Sys2Proof/Laws/Safety.lean ====
section
/-!
SUPPORT. How the terms of Safety follow from the end of a command's own rule.
-/

namespace Sys2Proof.Machine

/-- Counting a command changes no part. -/
theorem keeps_count (p : Part) (s : State) : keeps p s s.count := by
  cases p <;> simp [keeps]

/-- What the rule's own end changed is what the command changed. -/
theorem changesOnly_conclude (ps : List Part) (s : State) (w : Word) (r : RuleEnd) :
    changesOnly ps s (conclude w r) ↔ changesOnly ps s r.kept := by
  refine forall_congr' fun p => imp_congr_right fun _ => ?_
  cases p <;> simp [keeps]

theorem changesOnly_count (ps : List Part) (s t : State) : changesOnly ps s.count t ↔ changesOnly ps s t := by
  refine forall_congr' fun p => imp_congr_right fun _ => ?_
  cases p <;> simp [keeps]

/-- A command whose rule is done succeeds, writing the flags its rule wrote. -/
theorem succeeds_conclude (w : Word) (fs : List Flag) (s t : State) (hb : SameBooks s.count t)
    (hf : flagsOnly fs s t) : succeeds fs s (conclude w (.done t)) := by
  refine ⟨by simp [hb.cSeq], by simp, by simp [hb.errCmd], ?_⟩
  intro j hj hjf
  simp only [conclude_done_status, Status.getLsbD_setErr]
  rw [if_neg (by omega)]
  exact hf j hj hjf

/-- A command whose rule raises an error fails with it, its completed steps writing the flags they wrote. -/
theorem fails_conclude (w : Word) (e : Err) (fs : List Flag) (s t : State) (hb : SameBooks s.count t)
    (hf : flagsOnly fs s t) : fails e w fs s (conclude w (.raise e t)) := by
  have he := e.sticky_range
  refine ⟨by simp [hb.cSeq], by simp, by simp [Status.flag_noteError_sticky], by simp, ?_, ?_⟩
  · intro hp
    simp only [conclude_raise_status, Status.flag, Status.getLsbD_noteError]
    rw [if_neg (by decide), if_neg (show ¬ Flag.resValid.bit = e.sticky.bit by rw [show Flag.resValid.bit = 12 from rfl]; omega),
      if_pos ⟨rfl, hp⟩]
  · intro j hj hjf
    simp only [List.mem_append] at hjf
    simp only [conclude_raise_status, Status.getLsbD_noteError]
    have h1 : e.sticky.bit ≠ j := hjf e.sticky (Or.inl (by cases h : producesRes w <;> simp [errorFlags, h]))
    have h2 : ¬ (j = 12 ∧ producesRes w = true) := fun ⟨hj12, hp⟩ =>
      hjf .resValid (Or.inl (by simp [errorFlags, hp])) hj12.symm
    rw [if_neg (by omega), if_neg (fun h => h1 h.symm), if_neg h2]
    exact hf j hj fun f hm => hjf f (Or.inr hm)

theorem flagsOnly_self (fs : List Flag) (s : State) : flagsOnly fs s s := fun _ _ _ => rfl

theorem flagsOnly_count (fs : List Flag) (s : State) : flagsOnly fs s s.count := fun _ _ _ => rfl

/-- A command that writes nothing of its own succeeds with nothing but the protocol. -/
theorem succeeds_conclude_self (w : Word) (s : State) : succeeds [] s (conclude w (.done s.count)) :=
  succeeds_conclude w [] s _ (SameBooks.rfl' _) (flagsOnly_count _ _)

/-- A command refused before its first write leaves every part as it was. -/
theorem refused_conclude (w : Word) (e : Err) (s : State) :
    fails e w [] s (conclude w (.raise e s.count)) ∧ changesOnly [] s (conclude w (.raise e s.count)) :=
  ⟨fails_conclude w e [] s _ (SameBooks.rfl' _) (flagsOnly_count _ _),
    (changesOnly_conclude _ _ _ _).2 fun p _ => keeps_count p s⟩

/-- A command whose rule is refused on the state it was given raises that error and changes no part. -/
theorem exec_refused (e : Err) (i : Instr) (s : State) (h : ruleOf i s.count = .raise e s.count) :
    ∃ t, exec i s = .next t ∧ fails e (encode i) [] s t ∧ changesOnly [] s t := by
  refine ⟨_, exec_eq i s, ?_⟩
  rw [h]
  exact refused_conclude (encode i) e s

/-- A well-formed EXT's or RA_GET's word was meant to produce RES. -/
theorem producesRes_iff (w : Word) : producesRes w = true ↔ opField w = 0x10 ∨ opField w = 0x43 := by
  simp [producesRes]

end Sys2Proof.Machine
end

