-- ==== Sys2Proof/Tests/Slice0.lean ====
section
/-!
SUPPORT. The model's own tests. Expected values come from the spec: the encodings of 30_encoding R82 to R99, the examples
of the command rules, and the vectors of 95_test_vectors. The last section shows, for every statement with hypotheses, a
state and operands that meet them.
-/

/-! The tests are elaborated one after another: many at once would each hold a thread of their own. -/
set_option Elab.async false

namespace Sys2Proof.Tests

open Sys2Proof.Machine

/-! ### WellFormed refuses each number that does not fit its field -/

theorem test_wf_fbw1_addr : (Instr.fbw1 (2 ^ 24) 0).wf = false := by decide
theorem test_wf_fbw2_addr : (Instr.fbw2 (2 ^ 24) 0).wf = false := by decide
theorem test_wf_fbw3_addr : (Instr.fbw3 (2 ^ 24) 0).wf = false := by decide
theorem test_wf_setlen_len : (Instr.setlen (2 ^ 24)).wf = false := by decide
theorem test_wf_extBe_off : (Instr.extBe .unsigned .fb (2 ^ 24) 8).wf = false := by decide
theorem test_wf_extBe_w : (Instr.extBe .unsigned .fb 0 128).wf = false := by decide
theorem test_wf_extLe_addr : (Instr.extLe .signed .rb .b4 (2 ^ 24) 8 0).wf = false := by decide
theorem test_wf_extLe_w : (Instr.extLe .signed .rb .b4 0 128 0).wf = false := by decide
theorem test_wf_extLe_p : (Instr.extLe .signed .rb .b4 0 8 64).wf = false := by decide
theorem test_wf_crcRun_pad : (Instr.crcRun 8 0 0).wf = false := by decide
theorem test_wf_crcRun_off : (Instr.crcRun 0 (2 ^ 24) 0).wf = false := by decide
theorem test_wf_crcRun_count : (Instr.crcRun 0 0 (2 ^ 24)).wf = false := by decide
theorem test_wf_crcCheck_off : (Instr.crcCheck (2 ^ 24)).wf = false := by decide
theorem test_wf_flRun_off : (Instr.flRun (2 ^ 24) 0).wf = false := by decide
theorem test_wf_flRun_count : (Instr.flRun 0 (2 ^ 24)).wf = false := by decide
theorem test_wf_flCheck_off : (Instr.flCheck (2 ^ 24)).wf = false := by decide
theorem test_wf_raAppBe_off : (Instr.raAppBe .fb (2 ^ 24) 8).wf = false := by decide
theorem test_wf_raAppBe_w : (Instr.raAppBe .fb 0 128).wf = false := by decide
theorem test_wf_raAppLe_addr : (Instr.raAppLe .fb .b1 (2 ^ 24) 8 0).wf = false := by decide
theorem test_wf_raAppLe_w : (Instr.raAppLe .fb .b1 0 128 0).wf = false := by decide
theorem test_wf_raAppLe_p : (Instr.raAppLe .fb .b1 0 8 64).wf = false := by decide
theorem test_wf_raAppr_w : (Instr.raAppr 128).wf = false := by decide
theorem test_wf_largest_operands :
    (Instr.extLe .signed .rb .b8 (2 ^ 24 - 1) 127 63).wf = true ∧
    (Instr.crcRun 7 (2 ^ 24 - 1) (2 ^ 24 - 1)).wf = true := by decide

/-! ### Decoding: each word is OP, F, A, B of 30_encoding R82 written out, the B of format X as P, bit 7 and W -/

theorem test_decode_nop : decode 0x00_00_000000_000000 = .ok .nop := by decide
theorem test_decode_fbw1 : decode 0x01_01_00ABCD_0000EF = .ok (.fbw1 0xABCD 0xEF) := by decide
theorem test_decode_fbw2 : decode 0x01_02_00FFFE_001234 = .ok (.fbw2 0xFFFE 0x1234) := by decide
theorem test_decode_fbw3 : decode 0x01_03_000010_B56201 = .ok (.fbw3 0x10 0xB56201) := by decide
theorem test_decode_setlen : decode 0x02_00_010008_000000 = .ok (.setlen 65544) := by decide
theorem test_decode_clrstat : decode 0x03_00_000000_000000 = .ok .clrstat := by decide
/-- F = SRC 1, NC 00, E 0, S 1 = 0x11; B = W = 64 = 0x40. -/
theorem test_decode_extBe : decode 0x10_11_000007_000040 = .ok (.extBe .signed .rb 7 64) := by decide
/-- F = SRC 0, NC 10, E 1, S 1 = 0x0B; B = P 010101, W 0000011 = 0x1503. -/
theorem test_decode_extLe : decode 0x10_0B_000004_001503 = .ok (.extLe .signed .fb .b4 4 3 21) := by decide
/-- F = SRC 1, NC 11, E 1, S 0 = 0x1E; B = P 111111, W 0000001 = 0x3F01. -/
theorem test_decode_extLe8 : decode 0x10_1E_000000_003F01 = .ok (.extLe .unsigned .rb .b8 0 1 63) := by decide
theorem test_decode_crcInit : decode 0x20_00_000000_000000 = .ok .crcInit := by decide
theorem test_decode_crcFeed1 : decode 0x21_01_000000_000001 = .ok (.crcFeed1 1) := by decide
theorem test_decode_crcFeed2 : decode 0x21_02_000000_000002 = .ok (.crcFeed2 2) := by decide
theorem test_decode_crcFeed3 : decode 0x21_03_000000_000005 = .ok (.crcFeed3 5) := by decide
theorem test_decode_crcFeed4 : decode 0x21_04_000000_00000A = .ok (.crcFeed4 10) := by decide
theorem test_decode_crcFeed5 : decode 0x21_05_000000_00001F = .ok (.crcFeed5 0x1F) := by decide
theorem test_decode_crcFeed6 : decode 0x21_06_000000_000021 = .ok (.crcFeed6 0x21) := by decide
theorem test_decode_crcFeed7 : decode 0x21_07_000000_000041 = .ok (.crcFeed7 0x41) := by decide
theorem test_decode_crcFeed8 : decode 0x21_08_000000_000081 = .ok (.crcFeed8 0x81) := by decide
theorem test_decode_crcRun : decode 0x22_06_000001_0000E2 = .ok (.crcRun 6 1 226) := by decide
theorem test_decode_crcCheck : decode 0x23_00_0000E2_000000 = .ok (.crcCheck 226) := by decide
theorem test_decode_crcSbas : decode 0x24_00_000000_000000 = .ok .crcSbas := by decide
theorem test_decode_flInit : decode 0x30_00_000000_000000 = .ok .flInit := by decide
theorem test_decode_flByte : decode 0x31_00_000000_0000FF = .ok (.flByte 0xFF) := by decide
theorem test_decode_flRun : decode 0x32_00_000002_000008 = .ok (.flRun 2 8) := by decide
theorem test_decode_flCheck : decode 0x33_00_00000A_000000 = .ok (.flCheck 10) := by decide
theorem test_decode_flUbx : decode 0x34_00_000000_000000 = .ok .flUbx := by decide
theorem test_decode_raClr : decode 0x40_00_000000_000000 = .ok .raClr := by decide
/-- F = SRC 1, NC 00, E 0, S 0 = 0x10. -/
theorem test_decode_raAppBe : decode 0x41_10_000000_000008 = .ok (.raAppBe .rb 0 8) := by decide
/-- F = SRC 0, NC 01, E 1, S 0 = 0x06; B = P 001000, W 0001000 = 0x0808. -/
theorem test_decode_raAppLe : decode 0x41_06_00000C_000808 = .ok (.raAppLe .fb .b2 12 8 8) := by decide
theorem test_decode_raAppr : decode 0x42_00_000000_000048 = .ok (.raAppr 72) := by decide
theorem test_decode_raGet : decode 0x43_01_000000_000000 = .ok (.raGet .signed) := by decide

/-- A word of each reason of 30_encoding R95 is rejected by name. -/
theorem test_decode_illegal :
    decode 0x05_00_000000_000000 = .error .reservedOpcode ∧
    decode 0x00_00_000000_000001 = .error .reservedBits ∧
    decode 0x10_20_000008_000006 = .error .reservedBits ∧
    decode 0x10_00_000008_000086 = .error .reservedBits ∧
    decode 0x42_00_000000_000088 = .error .reservedBits ∧
    decode 0x01_00_000000_000000 = .error .noDataByte ∧
    decode 0x01_01_000000_000100 = .error .dataAboveCount ∧
    decode 0x21_00_000000_000000 = .error .badBitCount ∧
    decode 0x21_09_000000_000000 = .error .badBitCount ∧
    decode 0x21_01_000000_000002 = .error .dataAboveCount ∧
    decode 0x10_00_000000_000108 = .error .containerInBigEndian ∧
    decode 0x10_04_000000_000008 = .error .containerInBigEndian ∧
    decode 0x41_01_000000_000008 = .error .signedChunk := by decide

/-- A word of fewer bits than a command's is read with zeros above them; OP stands in the highest bits. -/
theorem test_decodeTableWord :
    decodeTableWord 64 0x0103000010B56201 = some (.fbw3 0x10 0xB56201) ∧
    decodeTableWord 64 0x0500000000000000 = none ∧ decodeTableWord 8 0 = some .nop := by decide

/-- The printed form of 30_encoding R97. -/
theorem test_assembly :
    asm (.extLe .signed .fb .b4 4 3 21) = "EXT.S.LE4 fb, 4, 3, 21" ∧ asm (.crcRun 6 0 226) = "CRC_RUN.6 0, 226" ∧
    asm (.raAppLe .fb .b4 12 8 18) = "RA_APP.LE4 fb, 12, 8, 18" ∧ asm (.raGet .signed) = "RA_GET.S" := by decide

/-- The examples of 30_encoding R99, assembled; the last line is V-CTL-4 of 95_test_vectors. -/
theorem test_assemble :
    assemble "FBW.3 0x10, 0xB56201" = some [0x0103000010B56201] ∧
    assemble "SETLEN 32" = some [0x0200000020000000] ∧
    assemble "CRC_RUN.6 0, 226" = some [0x22060000000000E2] ∧
    assemble "CRC_FEED.8 0x31" = some [0x2108000000000031] ∧
    assemble "EXT.S.LE4 fb, 4, 3, 21" = some [0x100B000004001503] ∧
    assemble "RA_APP.LE4 fb, 12, 8, 18" = some [0x410A00000C001208] ∧
    assemble "RA_GET.S" = some [0x4301000000000000] ∧
    assemble "FBW.1 0, 0x100" = some [0x0101000000000100] := by decide +kernel

/-- Pseudo-instructions assembled (30_encoding R98). -/
theorem test_assemble_pseudo :
    assemble "RA_FIELD2 LE4 fb, 12, 8, 18 ; LE4 fb, 16, 24, 2" =
      some [0x4000000000000000, 0x410A00000C001208, 0x410A000010000218] ∧
    assemble "EXTS.BE 0, 4" = some [0x1001000000000004] ∧ assemble "CRC_PAD 6" = some [0x2106000000000000] ∧
    assemble "CRC24Q_29" = some [0x2000000000000000, 0x22060000000000E2] ∧
    assemble "CRC_PAD 9" = none := by decide +kernel

/-- The spot checks of 42_crc24q R154. -/
theorem test_lut : lutEntry 0x01 = 0x864CFB ∧ lutEntry 0x80 = 0x3347A4 ∧ lutEntry 0xFF = 0xDD8538 := by decide

/-! ### One step of each command -/

/-- The state after one command; the start state if the command did not answer a next state, so that a test of its
effect fails. -/
def after (i : Instr) (s : State) : State :=
  match exec i s with
  | .next t => t
  | .fault _ => s
  | .refused _ => s

/-- The reset state with a frame loaded at FB[0] and its length declared. -/
def framed (bytes : List Byte) : State :=
  (State.reset.setFb (Memory.writeBytes [] 0 bytes)).setFlen (BitVec.ofNat 24 bytes.length)

/-- The nine bytes of the extractor vectors. -/
def extFrame : State := framed [0x87, 0xFC, 0x12, 0x34, 0x56, 0x78, 0x9A, 0xBC, 0x01]

/-- The first n bytes of the SBAS message type 0 frame of V-CRC-9. -/
def sbasFrame (n : Nat) : State :=
  framed ((0x53 :: List.replicate 27 0 ++ [0x34, 0x74, 0x3E, 0x00]).take n)

/-- The first n bytes of the UBX NAV-EOE frame of V-SRC-7. -/
def ubxFrame (n : Nat) : State :=
  framed ([0xB5, 0x62, 0x01, 0x61, 0x04, 0x00, 0x00, 0x00, 0x00, 0x00, 0x66, 0xC7].take n)

/-- V-CTL-10, its last command. -/
theorem test_nop : (after .nop (State.reset.setStatus 0x11)).status = 0x10 ∧
    (after .nop (State.reset.setStatus 0x11)).cSeq = 1 := by decide

/-- V-CTL-14. -/
theorem test_nop_cSeq_wraps : { after .nop { State.reset with cSeq := 0xFFFFFFFF } with draws := 0 } = State.reset := by
  decide

theorem test_fbw1 : (after (.fbw1 2 0x53) (framed [1, 2, 3])).fb = [(0, 1), (1, 2), (2, 0x53)] := by decide

/-- V-CTL-2 and V-CTL-3. -/
theorem test_fbw2 : (after (.fbw2 65542 0x1234) State.reset).fb = [(65542, 0x12), (65543, 0x34)] ∧
    (after (.fbw2 65543 0x1234) State.reset).fb = [] := by decide
theorem test_fbw2_past_end : (after (.fbw2 65543 0x1234) State.reset).status = 0x43 ∧
    (after (.fbw2 65543 0x1234) State.reset).errCmd = 0x0102010007001234 := by decide

/-- The example of 40_control R111. -/
theorem test_fbw3 : (after (.fbw3 0 0xB56201) State.reset).fb = [(0, 0xB5), (1, 0x62), (2, 0x01)] := by decide

/-- V-CTL-6 and V-CTL-7. -/
theorem test_setlen : (after (.setlen 65544) State.reset).flen = 65544 ∧
    (after (.setlen 65545) (State.reset.setFlen 20)).flen = 20 := by decide
theorem test_setlen_too_long : (after (.setlen 65545) State.reset).status = 0x43 ∧
    (after (.setlen 65545) State.reset).errCmd = 0x0200010009000000 := by decide

/-- V-CTL-9. -/
theorem test_clrstat : (after .clrstat ((State.reset.setStatus 0x33F1).setErrCmd 5)).status = 0x3300 ∧
    (after .clrstat ((State.reset.setStatus 0x33F1).setErrCmd 5)).errCmd = 5 := by decide

/-- V-EXT-2 and V-EXT-10. -/
theorem test_extBe : (after (.extBe .signed .fb 0 4) extFrame).res = 0xFFFFFFFFFFFFFFF8 ∧
    (after (.extBe .unsigned .fb 7 64) extFrame).res = 0xFE091A2B3C4D5E00 := by decide +kernel

/-- V-EXT-25: a field one bit past the end, after a successful one. -/
theorem test_extBe_past_end :
    (after (.extBe .unsigned .fb 71 2) ((extFrame.setRes 0x3F).setStatus 0x1000)).status = 0x11 ∧
    (after (.extBe .unsigned .fb 71 2) ((extFrame.setRes 0x3F).setStatus 0x1000)).res = 0x3F := by decide +kernel

/-- V-EXT-9 and V-EXT-21. -/
theorem test_extLe : (after (.extLe .signed .fb .b4 4 32 0) extFrame).res = 0xFFFFFFFFBC9A7856 ∧
    (after (.extLe .unsigned .fb .b8 1 8 0) extFrame).res = 1 := by decide +kernel

/-- V-EXT-18 and V-EXT-23. -/
theorem test_extLe_errors : (after (.extLe .unsigned .fb .b2 0 9 8) extFrame).status = 0x22 ∧
    (after (.extLe .unsigned .fb .b4 4 8 24) (framed [0, 0, 0, 0, 0x11, 0x22])).status = 0x11 := by decide +kernel

/-- The generator of the example of 42_crc24q R157. -/
theorem test_crcInit :
    (after .crcInit ((State.reset.setGen ⟨0xD1D0F8, 5, 3⟩).setStatus 0x3380)).gen = ⟨0, 0, 0⟩ ∧
    (after .crcInit ((State.reset.setGen ⟨0xD1D0F8, 5, 3⟩).setStatus 0x3380)).status = 0x3080 := by decide

/-- V-CRC-3 and V-CRC-25. -/
theorem test_crcFeed1 : (after (.crcFeed7 0) (after (.crcFeed1 1) State.reset)).gen = ⟨0x3347A4, 0, 0⟩ ∧
    (after (.crcFeed1 0) (State.reset.setStatus 0x300)).status = 0 := by decide +kernel
theorem test_crcFeed2 : (after (.crcFeed2 1) State.reset).gen = ⟨0, 1, 2⟩ ∧
    (after (.crcFeed2 2) State.reset).gen = ⟨0, 2, 2⟩ := by decide +kernel
/-- V-CRC-5. -/
theorem test_crcFeed3 : (after (.crcFeed3 5) State.reset).gen = ⟨0, 5, 3⟩ := by decide +kernel
/-- Entry 0xA8 of 42_crc24q R154. -/
theorem test_crcFeed4 : (after (.crcFeed4 8) (State.reset.setGen ⟨0, 0xA, 4⟩)).gen = ⟨0x9E1774, 0, 0⟩ := by
  decide +kernel
/-- V-CRC-7. -/
theorem test_crcFeed5_then_8 :
    (after (.crcFeed8 0xFF) (after (.crcFeed5 0x1F) State.reset)).gen = ⟨0xDD8538, 0x1F, 5⟩ := by decide +kernel
/-- V-CRC-8, its last command. -/
theorem test_crcFeed6 : (after (.crcFeed6 0) State.reset).gen = ⟨0, 0, 6⟩ := by decide +kernel
theorem test_crcFeed7 : (after (.crcFeed7 1) (State.reset.setGen ⟨0, 0, 1⟩)).gen = ⟨0x864CFB, 0, 0⟩ := by
  decide +kernel
/-- V-CRC-1. -/
theorem test_crcFeed8 : (after (.crcFeed8 0x01) State.reset).gen = ⟨0x864CFB, 0, 0⟩ := by decide +kernel

/-- V-CRC-9, its second command, and V-CRC-11. -/
theorem test_crcRun : (after (.crcRun 6 0 226) (sbasFrame 32)).gen = ⟨0xD1D0F8, 0, 0⟩ ∧
    (after (.crcRun 6 0 250) (sbasFrame 32)).gen = ⟨0, 0, 0⟩ := by decide +kernel
/-- V-CRC-20 and V-CRC-21. -/
theorem test_crcRun_empty : (after (.crcRun 3 0 0) State.reset).gen = ⟨0, 0, 3⟩ ∧
    (after (.crcRun 0 1 0) State.reset).status = 0x11 := by decide +kernel

/-- V-CRC-9, its last command. -/
theorem test_crcCheck :
    (after (.crcCheck 226) ((sbasFrame 32).setGen ⟨0xD1D0F8, 0, 0⟩)).crcRx = 0xD1D0F8 ∧
    (after (.crcCheck 226) ((sbasFrame 32).setGen ⟨0xD1D0F8, 0, 0⟩)).status = 0x300 := by decide +kernel
/-- V-CRC-6: the error of unfolded bits comes before the error of the bounds. -/
theorem test_crcCheck_unfolded :
    (after (.crcCheck 0) (State.reset.setGen ⟨0, 5, 3⟩)).status = 0x22 ∧
    (after (.crcCheck 0) (State.reset.setGen ⟨0, 5, 3⟩)).errCmd = 0x2300000000000000 := by decide

/-- V-CRC-10 and V-CRC-24. -/
theorem test_crcSbas : (after .crcSbas ((sbasFrame 32).setGen ⟨7, 7, 3⟩)).gen = ⟨0xD1D0F8, 0, 0⟩ ∧
    (after .crcSbas (sbasFrame 32)).status = 0x300 := by decide +kernel
/-- V-CRC-16. -/
theorem test_crcSbas_no_trailer : (after .crcSbas (sbasFrame 30)).gen = ⟨0xD1D0F8, 0, 0⟩ ∧
    (after .crcSbas (sbasFrame 30)).status = 0x11 := by decide +kernel

theorem test_flInit : (after .flInit ((State.reset.setSums ⟨0x66, 0xC7⟩).setStatus 0xC80)).sums = ⟨0, 0⟩ ∧
    (after .flInit ((State.reset.setSums ⟨0x66, 0xC7⟩).setStatus 0xC80)).status = 0x80 := by decide

/-- V-FL-4 and V-FL-6, their last commands. -/
theorem test_flByte : (after (.flByte 0xFF) (State.reset.setSums ⟨0xFF, 0xFF⟩)).sums = ⟨0xFE, 0xFD⟩ ∧
    (after (.flByte 0) (State.reset.setSums ⟨5, 5⟩)).sums = ⟨5, 10⟩ := by decide

/-- V-FL-9, its second command. -/
theorem test_flRun : (after (.flRun 2 8) (ubxFrame 12)).sums = ⟨0x66, 0xC7⟩ := by decide +kernel
/-- V-FL-15 and V-FL-16. -/
theorem test_flRun_empty : (after (.flRun 12 0) (ubxFrame 12)).status = 0 ∧
    (after (.flRun 13 0) (ubxFrame 12)).status = 0x11 := by decide +kernel

/-- V-FL-9, its last command, and V-FL-17. -/
theorem test_flCheck : (after (.flCheck 10) ((ubxFrame 12).setSums ⟨0x66, 0xC7⟩)).flRx = 0xC766 ∧
    (after (.flCheck 10) ((ubxFrame 12).setSums ⟨0x66, 0xC7⟩)).status = 0xC00 := by decide +kernel
theorem test_flCheck_past_end : (after (.flCheck 11) (ubxFrame 12)).flRx = 0 ∧
    (after (.flCheck 11) (ubxFrame 12)).status = 0x11 := by decide +kernel

/-- V-FL-8. -/
theorem test_flUbx : (after .flUbx (ubxFrame 12)).sums = ⟨0x66, 0xC7⟩ ∧
    (after .flUbx (ubxFrame 12)).status = 0xC00 := by decide +kernel
/-- V-FL-11 and V-FL-12. -/
theorem test_flUbx_short : (after .flUbx ((ubxFrame 5).setSums ⟨9, 9⟩)).sums = ⟨9, 9⟩ ∧
    (after .flUbx (ubxFrame 10)).sums = ⟨0x66, 0xC7⟩ := by decide +kernel

/-- The example of 44_reassembly R201. -/
theorem test_raClr : (after .raClr (State.reset.setAsm ⟨0x9ABCDEF0, 32⟩)).asm = ⟨0, 0⟩ := by decide

/-- The corner case of 44_reassembly R203: RB is read before the append. -/
theorem test_raAppBe : (after (.raAppBe .rb 0 8) (State.reset.setAsm ⟨0xA5, 8⟩)).asm = ⟨0xA5A5, 16⟩ := by decide +kernel
/-- Past 128 bits, with the chunk past the frame too (60_exceptions R225). -/
theorem test_raAppBe_full : (after (.raAppBe .fb 0 1) (State.reset.setAsm ⟨1, 128⟩)).status = 0x22 ∧
    (after (.raAppBe .fb 0 1) (State.reset.setAsm ⟨1, 128⟩)).asm = ⟨1, 128⟩ := by decide

/-- The example of 44_reassembly R203. -/
theorem test_raAppLe :
    (after (.raAppLe .fb .b4 12 8 18) (framed (List.replicate 12 0 ++ [0x80, 0x26, 0, 0]))).asm = ⟨0x9A, 8⟩ := by
  decide +kernel

/-- The example of 44_reassembly R204, and the same with RES_VALID = 0. -/
theorem test_raAppr : (after (.raAppr 8) ((State.reset.setRes 0x9A).setStatus 0x1000)).asm = ⟨0x9A, 8⟩ ∧
    (after (.raAppr 8) (State.reset.setRes 0x9A)).status = 0x22 := by decide +kernel

/-- The example of 44_reassembly R205. -/
theorem test_raGet : (after (.raGet .signed) (State.reset.setAsm ⟨0x9ABCDEF0, 32⟩)).res = 0xFFFFFFFF9ABCDEF0 ∧
    (after (.raGet .unsigned) (State.reset.setAsm ⟨0x9ABCDEF0, 32⟩)).res = 0x9ABCDEF0 := by decide +kernel
/-- With nothing held, RES is kept and RES_VALID cleared. -/
theorem test_raGet_empty : (after (.raGet .signed) ((State.reset.setRes 7).setStatus 0x1000)).status = 0x22 ∧
    (after (.raGet .signed) ((State.reset.setRes 7).setStatus 0x1000)).res = 7 := by decide +kernel

/-! ### The port -/

/-- The state after one step, the start state if there is none. -/
def stepped (s : State) : State :=
  match step s with
  | .next t => t
  | .fault _ => s
  | .refused _ => s

/-- A placed word runs as the very next step, ahead of what is pending (log entry 4). -/
theorem test_withFetchWord :
    (stepped ((State.reset.setPort [.reset]).withFetchWord 64 0x0200000020000000)).flen = 32 ∧
    (stepped ((State.reset.setPort [.reset]).withFetchWord 64 0x0200000020000000)).port = [.reset] := by decide

/-- V-CTL-13: an illegal EXT word clears RES_VALID and keeps RES. -/
theorem test_illegal_ext_word :
    (stepped (((State.reset.setRes 0x3F).setStatus 0x1000).setPort [.writeCmd 0x1020000008000006])).status = 0x43 ∧
    (stepped (((State.reset.setRes 0x3F).setStatus 0x1000).setPort [.writeCmd 0x1020000008000006])).res = 0x3F := by
  decide

/-- CRCSTATE, FLSTATE and RA_HI of 10_state R21. -/
theorem test_readReg :
    readReg 0x02 (State.reset.setGen ⟨0x864CFB, 0x1F, 5⟩) = 0x000000051F864CFB ∧
    readReg 0x04 (State.reset.setSums ⟨0x66, 0xC7⟩) = 0xC766 ∧
    readReg 0x08 (State.reset.setAsm ⟨0x123456789ABCDEF0_0000000000000001, 125⟩) = 0x123456789ABCDEF0 := by decide

/-! ### Witnesses: states and operands that meet the hypotheses of each statement -/

/-- A command sent from a state that has more to come. -/
def sending (w : Word) : State := extFrame.setPort [.writeCmd w, .readReg 0]

theorem witness_DecodeOfEncode : (Instr.extLe .signed .rb .b8 (2 ^ 24 - 1) 127 63).wf = true ∧
    (Instr.raAppr 0).wf = true := by decide

theorem witness_EncodeOfDecode : decode 0x100B000004001503 = .ok (.extLe .signed .fb .b4 4 3 21) := by decide

theorem witness_DecoderAgreesWithOpcodeTable : decode 0x2108000000000081 = .ok (.crcFeed8 0x81) ∧
    decode 0x4101000000000008 = .error .signedChunk := by decide

theorem witness_StepRunsOldestCommand : (sending 0x0300000000000000).port = [.writeCmd 0x0300000000000000, .readReg 0] ∧
    decode 0x0300000000000000 = .ok .clrstat ∧ State.reset.port = [] := by decide

/-- One word of each kind the statement tells apart: EXT's, RA_GET's, and another. -/
theorem witness_IllegalWordIsRecorded :
    (sending 0x1020000008000006).port = [.writeCmd 0x1020000008000006, .readReg 0] ∧
    decode 0x1020000008000006 = .error .reservedBits ∧ opField 0x1020000008000006 = 0x10 ∧
    decode 0x4302000000000000 = .error .reservedBits ∧ opField 0x4302000000000000 = 0x43 ∧
    decode 0x0500000000000000 = .error .reservedOpcode := by decide

theorem witness_RegisterReadHasNoSideEffect :
    (extFrame.setPort [.readReg 0xFF, .readReg 0xFF, .reset]).port = [.readReg 0xFF, .readReg 0xFF, .reset] := by decide

theorem witness_RegisterMapReads : 0x0C ≤ (0x0C : BitVec 8).toNat ∧ 0x0C ≤ (0xFF : BitVec 8).toNat := by decide

theorem witness_ResetSetsEveryRegister : (extFrame.setPort [.reset, .readReg 0]).port = [.reset, .readReg 0] := by decide

/-- A state with a full accumulator, a pending bit and a recorded mismatch meets the invariant, and a step goes on. -/
theorem witness_StepKeepsInvariant :
    Invariant ((((sending 0x0100010007000001).setAsm ⟨2 ^ 128 - 1, 128⟩).setGen ⟨0xFFFFFF, 0x7F, 7⟩).setStatus 0x3F83) ∧
    ∃ t, step ((((sending 0x0100010007000001).setAsm ⟨2 ^ 128 - 1, 128⟩).setGen ⟨0xFFFFFF, 0x7F, 7⟩).setStatus 0x3F83) =
      .next t := by
  refine ⟨?_, _, rfl⟩
  unfold Invariant Status.wf Reasm.wf
  decide +kernel

theorem witness_EveryCommandWordIsCounted :
    (sending 0xFFFFFFFFFFFFFFFF).port = [.writeCmd 0xFFFFFFFFFFFFFFFF, .readReg 0] := by decide

theorem witness_RunOfWordsCompletes :
    (State.reset.setPort [.writeCmd 0, .writeCmd 5]).port = [(0 : Word), 5].map .writeCmd := by decide

theorem witness_ErrorWordIsSaved :
    (sending 0x4300000000000000).port = [.writeCmd 0x4300000000000000, .readReg 0] := by decide

/-- A command with a sticky bit set before it, and one with none recorded after it. -/
theorem witness_OnlyClrstatLowersStickyBits :
    Instr.nop ≠ .clrstat ∧ (State.reset.setStatus 0x11).status.flag .truncS = true ∧
    (∃ t, exec .nop (State.reset.setStatus 0x11) = .next t) ∧
    ∃ t, exec .raClr State.reset = .next t ∧ noErrorRecorded t :=
  ⟨by decide, by decide, ⟨_, rfl⟩, _, rfl, by decide⟩

theorem witness_FailedPrimitiveCommandWritesNothing :
    Instr.setlen 65545 ≠ .crcSbas ∧ Instr.setlen 65545 ≠ .flUbx ∧
    ∃ t, exec (.setlen 65545) State.reset = .next t ∧ t.status.err ≠ 0 :=
  ⟨by decide, by decide, _, rfl, by decide⟩

/-- ERR and all the sticky error bits differ. -/
theorem witness_EarlierErrorsDoNotMatter (j : Nat) (h : 7 ≤ j) :
    (0x73 : Status).getLsbD j = State.reset.status.getLsbD j := by
  have : ∀ k < 64, 7 ≤ k → (0x73 : Status).getLsbD k = State.reset.status.getLsbD k := by decide
  by_cases hj : j < 64
  · exact this j hj h
  · rw [BitVec.getLsbD_of_ge _ _ (by omega), BitVec.getLsbD_of_ge _ _ (by omega)]

/-- The two memories differ at FLEN. -/
theorem witness_BytesBeyondFrameAreNotRead :
    (∀ a < extFrame.flen.toNat, (extFrame.fb.write 9 0xEE).read a = extFrame.fb.read a) ∧
    (extFrame.fb.write 9 0xEE).read 9 ≠ extFrame.fb.read 9 := by decide +kernel

theorem witness_OnlyNamedCommandsWriteState :
    (Instr.setlen 1).wf = true ∧ (∃ t, exec (.setlen 1) extFrame = .next t) ∧ (Instr.setlen 1).opcode ∉ writers .fb ∧
    ((Flag.resValid, [0x10, 0x43]) : Flag × List Nat) ∈ flagWriters ∧ (Instr.setlen 1).opcode ∉ [0x10, 0x43] :=
  ⟨by decide, ⟨_, rfl⟩, by decide, by decide, by decide⟩

/-- The last address that fits and the first that does not, for each size. -/
theorem witness_FbwWritesItsBytesOrNone :
    65543 + ([1] : List Byte).length ≤ Config.fbBytes ∧ Config.fbBytes < 65544 + ([1] : List Byte).length ∧
    65542 + ([1, 2] : List Byte).length ≤ Config.fbBytes ∧ Config.fbBytes < 65543 + ([1, 2] : List Byte).length ∧
    65541 + ([1, 2, 3] : List Byte).length ≤ Config.fbBytes ∧
    Config.fbBytes < 65542 + ([1, 2, 3] : List Byte).length := by decide

theorem witness_SetlenDeclaresLength : 65544 ≤ Config.fbBytes ∧ Config.fbBytes < 65545 := by decide

/-- A field that ends at the last bit of each source buffer. -/
theorem witness_ExtBigEndianReadsField :
    1 ≤ 64 ∧ 64 ≤ 64 ∧ 8 + 64 ≤ 8 * extFrame.bufferLen .fb ∧ 1 ≤ 1 ∧ 127 + 1 ≤ 8 * extFrame.bufferLen .rb := by decide

theorem witness_ExtLittleEndianReadsField :
    1 ≤ 64 ∧ 64 ≤ 64 ∧ 0 + 64 ≤ 8 * Container.b8.bytes ∧ 1 + Container.b8.bytes ≤ extFrame.bufferLen .fb ∧
    63 + 1 ≤ 8 * Container.b8.bytes ∧ 8 + Container.b8.bytes ≤ extFrame.bufferLen .rb := by decide

/-- Widths 0 and 65, a field and a container one past the end, and a field one past its container. -/
theorem witness_ExtErrorsInOrder :
    (Instr.extBe .unsigned .fb 0 0).wf = true ∧ (Instr.extBe .signed .rb 0 65).wf = true ∧
    (Instr.extBe .unsigned .fb 71 2).wf = true ∧ 8 * extFrame.bufferLen .fb < 71 + 2 ∧
    (Instr.extLe .unsigned .fb .b2 0 9 8).wf = true ∧ 8 * Container.b2.bytes < 8 + 9 ∧
    (Instr.extLe .unsigned .fb .b8 2 8 0).wf = true ∧ 0 + 8 ≤ 8 * Container.b8.bytes ∧
    extFrame.bufferLen .fb < 2 + Container.b8.bytes := by decide

/-- The raw fields 0b1000 and 0b0111 of V-SRC-2. -/
theorem witness_SignExtensionLaw :
    fieldRead extFrame .fb (.be 0) 4 = .ok 8 ∧ Nat.testBit 8 (4 - 1) = true ∧
    fieldRead extFrame .fb (.be 4) 4 = .ok 7 ∧ Nat.testBit 7 (4 - 1) = false := by decide +kernel

theorem witness_ByteContainerIsBigEndianField : 8 * 2097151 + 7 < 2 ^ 24 ∧ 7 + 1 ≤ 8 := by decide

theorem witness_LabelledFieldsAreRead :
    0 ≤ 63 ∧ 63 < 8 * Container.b8.bytes ∧ 1 + Container.b8.bytes ≤ extFrame.bufferLen .fb ∧
    7 ≤ 7 ∧ 7 < 8 ∧ 8 < extFrame.bufferLen .fb := by decide

theorem witness_CrcBitShiftsAndFolds : (⟨1, 0x3F, 6⟩ : CrcGen).dcnt.toNat < 7 ∧ (⟨1, 0x7F, 7⟩ : CrcGen).dcnt.toNat = 7 := by
  decide

theorem witness_CrcRunFeedsWindow :
    71 + 1 ≤ 8 * extFrame.flen.toNat ∧ 8 * extFrame.flen.toNat < 71 + 2 ∧ 72 + 0 ≤ 8 * extFrame.flen.toNat := by decide

theorem witness_CrcCheckComparesTrailer :
    extFrame.gen.dcnt = 0 ∧ 48 + 24 ≤ 8 * extFrame.flen.toNat ∧ (extFrame.setGen ⟨0, 0, 1⟩).gen.dcnt ≠ 0 ∧
    8 * extFrame.flen.toNat < 49 + 24 := by decide

theorem witness_CrcSbasVerifiesFrame : 32 ≤ (sbasFrame 32).flen.toNat := by decide

/-- The shortest frame that lacks the trailer only, and the longest that lacks message bits. -/
theorem witness_CrcSbasKeepsCompletedSteps :
    (sbasFrame 28).flen.toNat < 29 ∧ (sbasFrame 29).flen.toNat < 32 ∧ ¬ (sbasFrame 29).flen.toNat < 29 ∧
    (sbasFrame 31).flen.toNat < 32 := by decide

theorem sbasFrame_written : ∀ a < 32, (sbasFrame 32).fb.read a ≠ none := by decide +kernel

theorem witness_CrcSbasIsItsSequence :
    32 ≤ (sbasFrame 32).flen.toNat ∧ ∀ a < 32, (sbasFrame 32).fb.read a ≠ none := ⟨by decide, sbasFrame_written⟩

theorem witness_PaddingLaw : (6 + (List.replicate 226 true).length) % 8 = 0 := by decide +kernel

theorem witness_ResidueLaw : (bitsOf 8 0x31).length % 8 = 0 ∧
    (⟨lutConstruction 0x31, 0, 0⟩ : CrcGen) = (bitsOf 8 0x31).foldl crcBit ⟨0, 0, 0⟩ := by decide +kernel

theorem witness_CorrectSbasFrameHasZeroResidue :
    32 ≤ (sbasFrame 32).flen.toNat ∧ (∀ a < 32, (sbasFrame 32).fb.read a ≠ none) ∧
    exec .crcSbas (sbasFrame 32) = .next (after .crcSbas (sbasFrame 32)) ∧
    (after .crcSbas (sbasFrame 32)).status.flag .crcOk = true :=
  ⟨by decide, sbasFrame_written, rfl, by decide +kernel⟩

/-- Two frames that differ in the 6 low bits of byte 28 and after it. -/
theorem witness_CrcDependsOnMessageBitsOnly :
    29 ≤ (sbasFrame 32).flen.toNat ∧ 29 ≤ (framed (0x53 :: List.replicate 27 0 ++ [0x3F])).flen.toNat ∧
    (∀ a < 28, (sbasFrame 32).fb.read a ≠ none ∧
      (sbasFrame 32).fb.read a = (framed (0x53 :: List.replicate 27 0 ++ [0x3F])).fb.read a) ∧
    (sbasFrame 32).fb.read 28 = some 0x34 ∧ (framed (0x53 :: List.replicate 27 0 ++ [0x3F])).fb.read 28 = some 0x3F ∧
    (0x34 : Byte).toNat / 64 = (0x3F : Byte).toNat / 64 := by decide +kernel

theorem witness_FlRunFeedsRegion : 2 + 10 ≤ (ubxFrame 12).flen.toNat ∧ (ubxFrame 12).flen.toNat < 13 + 0 := by decide

theorem witness_FlCheckComparesTrailer :
    10 + 2 ≤ (ubxFrame 12).flen.toNat ∧ (ubxFrame 12).flen.toNat < 11 + 2 := by decide

theorem witness_FlUbxVerifiesFrame :
    6 ≤ (ubxFrame 12).flen.toNat ∧ 8 + payloadLength (ubxFrame 12) ≤ (ubxFrame 12).flen.toNat := by decide +kernel

/-- No length field, no whole region, and no whole trailer. -/
theorem witness_FlUbxKeepsCompletedSteps :
    (ubxFrame 5).flen.toNat < 6 ∧
    6 ≤ (ubxFrame 9).flen.toNat ∧ (ubxFrame 9).flen.toNat < 6 + payloadLength (ubxFrame 9) ∧
    6 + payloadLength (ubxFrame 11) ≤ (ubxFrame 11).flen.toNat ∧
    (ubxFrame 11).flen.toNat < 8 + payloadLength (ubxFrame 11) := by decide +kernel

theorem witness_FletcherSumsOfRegion : List.Perm ([1, 2] : List Byte) [2, 1] := List.Perm.swap 2 1 []

/-- The append that fills the accumulator. -/
theorem witness_RaAppAppendsChunk :
    fieldRead (extFrame.setAsm ⟨1, 64⟩) .fb (.be 8) 64 = .ok 0xFC123456789ABC01 ∧
    (extFrame.setAsm ⟨1, 64⟩).asm.rl.toNat + 64 ≤ 128 := by decide +kernel

/-- Every clause of both forms, at its boundary: widths 0, 65, 1 and 64, and the last field and container that fit. -/
theorem witness_FieldReadAnswers :
    (64 < 65) ∧ 8 * extFrame.bufferLen .fb < 71 + 2 ∧ 8 + 64 ≤ 8 * extFrame.bufferLen .fb ∧
    8 * Container.b1.bytes < 8 + 1 ∧ 7 + 1 ≤ 8 * Container.b1.bytes ∧ extFrame.bufferLen .fb < 9 + Container.b1.bytes ∧
    8 + Container.b1.bytes ≤ extFrame.bufferLen .fb := by decide

/-- Both sides of the capacity, and a chunk past the frame that would fit the accumulator. -/
theorem witness_RaAppErrorsInOrder :
    128 < (extFrame.setAsm ⟨1, 65⟩).asm.rl.toNat + 64 ∧ (extFrame.setAsm ⟨1, 64⟩).asm.rl.toNat + 64 ≤ 128 ∧
    fieldRead (extFrame.setAsm ⟨1, 64⟩) .fb (.be 9) 64 = .error .truncated := by decide +kernel

theorem witness_RaApprAppendsResult :
    (extFrame.setAsm ⟨1, 64⟩).asm.rl.toNat + 64 ≤ 128 ∧ (extFrame.setStatus 0x1000).status.flag .resValid = true ∧
    128 < (extFrame.setAsm ⟨1, 65⟩).asm.rl.toNat + 64 ∧ extFrame.status.flag .resValid = false := by decide

theorem witness_RaGetReadsAccumulator :
    1 ≤ (⟨1, 1⟩ : Reasm).rl.toNat ∧ Reasm.wf ⟨1, 1⟩ ∧ (⟨2 ^ 64 - 1, 64⟩ : Reasm).rl.toNat ≤ 64 ∧
    Reasm.wf ⟨2 ^ 64 - 1, 64⟩ ∧ (⟨0, 0⟩ : Reasm).rl.toNat = 0 ∧ 64 < (⟨1, 65⟩ : Reasm).rl.toNat := by decide +kernel

theorem witness_ReassemblyBufferIsLeftAligned : Reasm.wf ⟨0, 0⟩ ∧ Reasm.wf ⟨2 ^ 128 - 1, 128⟩ ∧ Reasm.wf ⟨5, 3⟩ := by
  decide +kernel

theorem witness_AppendedChunkReadsBack :
    Reasm.wf (extFrame.setAsm ⟨1, 64⟩).asm ∧ 1 ≤ 64 ∧ 64 ≤ 64 ∧ (extFrame.setAsm ⟨1, 64⟩).asm.rl.toNat + 64 ≤ 128 ∧
    8 + 64 ≤ 8 * (extFrame.setAsm ⟨1, 64⟩).bufferLen .fb := by decide

end Sys2Proof.Tests
end

section
/-!
What the decoder accepts, format by format: a decoded command is well formed, and its word is the word it was decoded
from (30_encoding R82 to R95).
-/

namespace Sys2Proof

/-- A word with these four fields is the word written from them. -/
theorem commandWord_of_fields {w : Word} {op f a b : Nat} (ho : opField w = op) (hf : fField w = f)
    (ha : aField w = a) (hb : bField w = b) : commandWord op f a b = w := by
  subst ho hf ha hb
  exact commandWord_fields w

theorem decodeZ_ok {w : Word} {i j : Instr} (h : decodeZ w i = .ok j) :
    j = i ∧ fField w = 0 ∧ aField w = 0 ∧ bField w = 0 := by
  unfold decodeZ at h
  split at h <;> cases h
  exact ⟨rfl, ‹_›⟩

theorem decodeA_ok {w : Word} {mk : Nat → Instr} {i : Instr} (h : decodeA w mk = .ok i) :
    i = mk (aField w) ∧ fField w = 0 ∧ bField w = 0 := by
  unfold decodeA at h
  split at h <;> cases h
  exact ⟨rfl, ‹_›⟩

theorem decodeFeedBits_ok {k : Nat} {w : Word} {mk : BitVec k → Instr} {i : Instr}
    (h : decodeFeedBits k w mk = .ok i) : i = mk (BitVec.ofNat k (bField w)) ∧ bField w < 2 ^ k := by
  unfold decodeFeedBits at h
  split at h <;> cases h
  exact ⟨rfl, ‹_›⟩

/-- The data of a word that holds no bit above them is the whole of field B. -/
theorem toNat_ofNat_bField {k : Nat} {w : Word} (h : bField w < 2 ^ k) :
    (BitVec.ofNat k (bField w)).toNat = bField w := by
  rw [BitVec.toNat_ofNat, Nat.mod_eq_of_lt h]

theorem wf_encode_of_decodeWr {w : Word} {i : Instr} (ho : opField w = 0x01) (h : decodeWr w = .ok i) :
    i.wf = true ∧ encode i = w := by
  have hf := fField_lt w
  have ha := aField_lt w
  have hb := bField_lt w
  unfold decodeWr at h
  dsimp only at h
  split_ifs at h with hr h0 h1 hd1 h2 hd2
  all_goals
    simp only [bitField] at *
    cases h
    refine ⟨by simpa [Instr.wf] using ha, commandWord_of_fields ho (by omega) rfl ?_⟩
    exact (toNat_ofNat_bField (by omega)).symm

theorem wf_encode_of_decodeFeed {w : Word} {i : Instr} (ho : opField w = 0x21) (h : decodeFeed w = .ok i) :
    i.wf = true ∧ encode i = w := by
  have hf := fField_lt w
  unfold decodeFeed at h
  dsimp only at h
  split_ifs at h with hr h1 h2 h3 h4 h5 h6 h7 h8
  all_goals
    simp only [bitField] at *
    obtain ⟨rfl, hb⟩ := decodeFeedBits_ok h
    exact ⟨rfl, commandWord_of_fields ho (by omega) (by omega) (toNat_ofNat_bField hb).symm⟩

theorem wf_encode_of_decodeCrun {w : Word} {i : Instr} (ho : opField w = 0x22) (h : decodeCrun w = .ok i) :
    i.wf = true ∧ encode i = w := by
  have hf := fField_lt w
  have ha := aField_lt w
  have hb := bField_lt w
  unfold decodeCrun at h
  split_ifs at h with hr
  simp only [bitField] at *
  cases h
  refine ⟨?_, commandWord_of_fields ho (by omega) rfl rfl⟩
  simp only [Instr.wf, decide_eq_true_eq]
  omega

theorem wf_encode_of_decodeByte {w : Word} {i : Instr} (ho : opField w = 0x31) (h : decodeByte w = .ok i) :
    i.wf = true ∧ encode i = w := by
  have hb := bField_lt w
  unfold decodeByte at h
  split_ifs at h with hr
  simp only [bitField] at *
  cases h
  exact ⟨rfl, commandWord_of_fields ho (by omega) (by omega) (toNat_ofNat_bField (by omega)).symm⟩

theorem wf_encode_of_decodeFrun {w : Word} {i : Instr} (ho : opField w = 0x32) (h : decodeFrun w = .ok i) :
    i.wf = true ∧ encode i = w := by
  unfold decodeFrun at h
  split_ifs at h with hr
  cases h
  exact ⟨decide_eq_true ⟨aField_lt w, bField_lt w⟩, commandWord_of_fields ho (by omega) rfl rfl⟩

theorem wf_encode_of_decodeAppr {w : Word} {i : Instr} (ho : opField w = 0x42) (h : decodeAppr w = .ok i) :
    i.wf = true ∧ encode i = w := by
  have hb := bField_lt w
  unfold decodeAppr at h
  split_ifs at h with hr
  simp only [bitField] at *
  cases h
  refine ⟨decide_eq_true (?_ : _ % 2 ^ 7 < 2 ^ 7), commandWord_of_fields ho (by omega) (by omega) (by omega)⟩
  omega

/-- The S bit of a one-bit number is that number. -/
theorem Signedness.code_ofCode {n : Nat} (h : n < 2) : (Signedness.ofCode n).code = n := by
  interval_cases n <;> rfl

theorem Source.code_ofCode {n : Nat} (h : n < 2) : (Source.ofCode n).code = n := by
  interval_cases n <;> rfl

theorem Container.code_ofCode {n : Nat} (h : n < 4) : (Container.ofCode n).code = n := by
  interval_cases n <;> rfl

theorem wf_encode_of_decodeGet {w : Word} {i : Instr} (ho : opField w = 0x43) (h : decodeGet w = .ok i) :
    i.wf = true ∧ encode i = w := by
  have hf := fField_lt w
  unfold decodeGet at h
  split_ifs at h with hr
  simp only [bitField] at *
  cases h
  refine ⟨rfl, commandWord_of_fields ho ?_ (by omega) (by omega)⟩
  rw [Signedness.code_ofCode] <;> omega

/-- What format X accepts: the big-endian form with the offset in A and the width in B, or the little-endian form with
the container's address in A and the width and position in B; S = 1 only where it may be (30_encoding R90). -/
theorem decodeX_ok {w : Word} {mayBeSigned : Bool} {mkBe : Signedness → Source → Nat → Nat → Instr}
    {mkLe : Signedness → Source → Container → Nat → Nat → Nat → Instr} {i : Instr}
    (h : decodeX w mayBeSigned mkBe mkLe = .ok i) :
    (∃ sg src width, i = mkBe sg src (aField w) width ∧ fField w = fOfBe sg src ∧ bField w = width ∧
      width < 2 ^ 7 ∧ (mayBeSigned = false → sg = .unsigned)) ∨
    (∃ sg src nc width p, i = mkLe sg src nc (aField w) width p ∧ fField w = fOfLe sg src nc ∧
      bField w = width + 256 * p ∧ width < 2 ^ 7 ∧ p < 2 ^ 6 ∧ (mayBeSigned = false → sg = .unsigned)) := by
  have hf := fField_lt w
  have hb := bField_lt w
  have hs : (Signedness.ofCode (fField w / 2 ^ 0 % 2 ^ 1)).code = fField w / 2 ^ 0 % 2 ^ 1 :=
    Signedness.code_ofCode (by omega)
  have hsrc : (Source.ofCode (fField w / 2 ^ 4 % 2 ^ 1)).code = fField w / 2 ^ 4 % 2 ^ 1 :=
    Source.code_ofCode (by omega)
  have hnc : (Container.ofCode (fField w / 2 ^ 2 % 2 ^ 2)).code = fField w / 2 ^ 2 % 2 ^ 2 :=
    Container.code_ofCode (by omega)
  unfold decodeX at h
  dsimp only at h
  split_ifs at h with hr hsg he hbe
  all_goals
    simp only [bitField] at *
    cases h
  · refine .inl ⟨_, _, _, rfl, ?_, by omega, by omega, fun hm => if_pos (by_contra fun hn => hsg ⟨hn, hm⟩)⟩
    rw [fOfBe, hs, hsrc]
    omega
  · refine .inr ⟨_, _, _, _, _, rfl, ?_, by omega, by omega, by omega,
      fun hm => if_pos (by_contra fun hn => hsg ⟨hn, hm⟩)⟩
    rw [fOfLe, hs, hsrc, hnc]
    omega

theorem wf_encode_of_decodeExt {w : Word} {i : Instr} (ho : opField w = 0x10)
    (h : decodeX w true .extBe .extLe = .ok i) : i.wf = true ∧ encode i = w := by
  have ha := aField_lt w
  rcases decodeX_ok h with ⟨sg, src, width, rfl, hf, hb, hw, -⟩ | ⟨sg, src, nc, width, p, rfl, hf, hb, hw, hp, -⟩
  · exact ⟨decide_eq_true ⟨ha, hw⟩, commandWord_of_fields ho hf rfl hb⟩
  · exact ⟨decide_eq_true ⟨ha, hw, hp⟩, commandWord_of_fields ho hf rfl hb⟩

theorem wf_encode_of_decodeApp {w : Word} {i : Instr} (ho : opField w = 0x41)
    (h : decodeX w false (fun _ => .raAppBe) (fun _ => .raAppLe) = .ok i) : i.wf = true ∧ encode i = w := by
  have ha := aField_lt w
  rcases decodeX_ok h with ⟨sg, src, width, rfl, hf, hb, hw, hs⟩ | ⟨sg, src, nc, width, p, rfl, hf, hb, hw, hp, hs⟩
  · rw [hs rfl] at hf
    exact ⟨decide_eq_true ⟨ha, hw⟩, commandWord_of_fields ho hf rfl hb⟩
  · rw [hs rfl] at hf
    exact ⟨decide_eq_true ⟨ha, hw, hp⟩, commandWord_of_fields ho hf rfl hb⟩

/-- A word whose F, A and B are 0 is the word of its operandless command. -/
theorem wf_encode_of_decodeZ {w : Word} {i j : Instr} {op : Nat} (ho : opField w = op) (h : decodeZ w j = .ok i)
    (hwf : j.wf = true) (he : encode j = commandWord op 0 0 0) : i.wf = true ∧ encode i = w := by
  obtain ⟨rfl, hf, ha, hb⟩ := decodeZ_ok h
  exact ⟨hwf, he.trans (commandWord_of_fields ho hf ha hb)⟩

theorem wf_encode_of_decodeA {w : Word} {i : Instr} {mk : Nat → Instr} {op : Nat} (ho : opField w = op)
    (h : decodeA w mk = .ok i) (hwf : ∀ a, (mk a).wf = decide (fits24 a))
    (he : ∀ a, encode (mk a) = commandWord op 0 a 0) : i.wf = true ∧ encode i = w := by
  obtain ⟨rfl, hf, hb⟩ := decodeA_ok h
  exact ⟨(hwf _).trans (decide_eq_true (aField_lt w)), (he _).trans (commandWord_of_fields ho hf rfl hb)⟩

/-- A conditional answer that accepts comes from one of its branches. -/
theorem ok_of_ite {p q : Prop} [Decidable p] {a b : Except Illegal Instr} {i : Instr}
    (h : (if p then a else b) = .ok i) (pos : p → a = .ok i → q) (neg : b = .ok i → q) : q := by
  split at h
  · exact pos ‹_› h
  · exact neg h

/-- A decoded command fits its format, and the word it was decoded from is the word the encoder writes (30_encoding
R95): by the opcode, then by the format. -/
theorem wf_encode_of_decode {w : Word} {i : Instr} (h : decode w = .ok i) : i.wf = true ∧ encode i = w := by
  unfold decode at h
  refine ok_of_ite h (wf_encode_of_decodeZ · · rfl rfl) fun h => ?_
  refine ok_of_ite h wf_encode_of_decodeWr fun h => ?_
  refine ok_of_ite h (wf_encode_of_decodeA · · (fun _ => rfl) fun _ => rfl) fun h => ?_
  refine ok_of_ite h (wf_encode_of_decodeZ · · rfl rfl) fun h => ?_
  refine ok_of_ite h wf_encode_of_decodeExt fun h => ?_
  refine ok_of_ite h (wf_encode_of_decodeZ · · rfl rfl) fun h => ?_
  refine ok_of_ite h wf_encode_of_decodeFeed fun h => ?_
  refine ok_of_ite h wf_encode_of_decodeCrun fun h => ?_
  refine ok_of_ite h (wf_encode_of_decodeA · · (fun _ => rfl) fun _ => rfl) fun h => ?_
  refine ok_of_ite h (wf_encode_of_decodeZ · · rfl rfl) fun h => ?_
  refine ok_of_ite h (wf_encode_of_decodeZ · · rfl rfl) fun h => ?_
  refine ok_of_ite h wf_encode_of_decodeByte fun h => ?_
  refine ok_of_ite h wf_encode_of_decodeFrun fun h => ?_
  refine ok_of_ite h (wf_encode_of_decodeA · · (fun _ => rfl) fun _ => rfl) fun h => ?_
  refine ok_of_ite h (wf_encode_of_decodeZ · · rfl rfl) fun h => ?_
  refine ok_of_ite h (wf_encode_of_decodeZ · · rfl rfl) fun h => ?_
  refine ok_of_ite h wf_encode_of_decodeApp fun h => ?_
  refine ok_of_ite h wf_encode_of_decodeAppr fun h => ?_
  refine ok_of_ite h wf_encode_of_decodeGet fun h => ?_
  cases h

end Sys2Proof

end

section
/-!
One step by the host's oldest operation, and the registers a read gives: the statements about the port (10_state R21,
R31, R32, R35).
-/

namespace Sys2Proof.Machine

/-! ### What one step does, by the host's oldest operation -/

/-- The rule a command word runs: its command's own, or for a word that is no command ILLEGAL_COMMAND (30_encoding R95,
60_exceptions R223). -/
def wordRule (w : Word) : State → RuleEnd :=
  match decode w with
  | .ok i => ruleOf i
  | .error _ => .raise .illegalCommand

theorem wordRule_of_ok {w : Word} {i : Instr} (h : decode w = .ok i) : wordRule w = ruleOf i := by
  simp only [wordRule, h]

theorem wordRule_of_error {w : Word} {e : Illegal} (h : decode w = .error e) :
    wordRule w = .raise .illegalCommand := by
  simp only [wordRule, h]

/-- Every command word, legal or not, runs its rule inside the common protocol, which knows it as the word the host
wrote (60_exceptions R224). -/
theorem step_writeCmd {s : State} {w : Word} {rest : List HostOp} (h : s.port = .writeCmd w :: rest) :
    step s = .next (conclude w (wordRule w (s.setPort rest).count)) := by
  simp only [step, h, serve]
  cases hd : decode w with
  | ok i => simp only [writeCmd, wordRule, hd, exec_eq, (wf_encode_of_decode hd).2]
  | error e => simp only [writeCmd, wordRule, hd, execute]

theorem step_readReg {s : State} {n : BitVec 8} {rest : List HostOp} (h : s.port = .readReg n :: rest) :
    step s = .next (answerRead n (s.setPort rest)) := by
  simp only [step, h, serve]

theorem step_reset {s : State} {rest : List HostOp} (h : s.port = .reset :: rest) :
    step s = .next (resetBlock (s.setPort rest)) := by
  simp only [step, h, serve]

theorem step_of_port_nil {s : State} (h : s.port = []) : step s = .next s := by
  simp only [step, h]

/-- No command word's rule touches the bookkeeping. -/
theorem wordRule_books (w : Word) (s : State) : SameBooks s (wordRule w s).kept := by
  cases hd : decode w with
  | ok i =>
    rw [wordRule_of_ok hd]
    exact rule_books i s
  | error e =>
    rw [wordRule_of_error hd]
    exact SameBooks.rfl' s

/-! ### Register reads -/

@[simp] theorem readReg_setPort (n : BitVec 8) (s : State) (v : List HostOp) :
    readReg n (s.setPort v) = readReg n s := rfl

@[simp] theorem readReg_setReplies (n : BitVec 8) (s : State) (v : List Word) :
    readReg n (s.setReplies v) = readReg n s := rfl

/-- Two numbers written side by side: the left one stands above the right one's width. -/
theorem toNat_append_eq_add {m n : Nat} (a : BitVec m) (b : BitVec n) :
    (a ++ b).toNat = b.toNat + 2 ^ n * a.toNat := by
  rw [BitVec.toNat_append, ← Nat.shiftLeft_add_eq_or_of_lt b.isLt, Nat.shiftLeft_eq]
  ring

/-- Register 0x02 is DCNT above D above CRC (10_state R21). -/
theorem toNat_readReg_crcState (s : State) :
    (readReg 0x02 s).toNat = s.gen.crc.toNat + 2 ^ 24 * s.gen.d.toNat + 2 ^ 32 * s.gen.dcnt.toNat := by
  show (0#29 ++ s.gen.dcnt ++ s.gen.d ++ s.gen.crc).toNat = _
  simp only [toNat_append_eq_add, BitVec.toNat_zero]
  omega

/-- Register 0x04 is CK_B above CK_A (10_state R21). -/
theorem toNat_readReg_sums (s : State) :
    (readReg 0x04 s).toNat = s.sums.ckA.toNat + 2 ^ 8 * s.sums.ckB.toNat := by
  show (0#48 ++ s.sums.ckB ++ s.sums.ckA).toNat = _
  simp only [toNat_append_eq_add, BitVec.toNat_zero]
  omega

/-- Registers 0x07 and 0x08 are the halves of RA (10_state R21). -/
theorem toNat_readReg_raLow (s : State) : (readReg 0x07 s).toNat = s.asm.ra.toNat % 2 ^ 64 := by
  show (s.asm.ra.extractLsb' 0 64).toNat = _
  simp

theorem toNat_readReg_raHigh (s : State) : (readReg 0x08 s).toNat = s.asm.ra.toNat / 2 ^ 64 := by
  have h := s.asm.ra.isLt
  show (s.asm.ra.extractLsb' 64 64).toNat = _
  rw [BitVec.extractLsb'_toNat, Nat.shiftRight_eq_div_pow]
  omega

/-- A reserved register number reads 0 (10_state R34). -/
theorem readReg_reserved (n : BitVec 8) (s : State) (h : 0x0C ≤ n.toNat) : readReg n s = 0 := by
  have hne : ∀ k : BitVec 8, k.toNat < 0x0C → n ≠ k := by
    rintro k hk rfl
    omega
  unfold readReg
  iterate 12 rw [if_neg (hne _ (by decide))]

/-- An error clears RES_VALID when its word was to produce RES (60_exceptions R224). -/
theorem Status.flag_noteError_resValid (st : Status) (e : Err) {w : Word} (h : producesRes w = true) :
    (st.noteError e w).flag .resValid = false := by
  simp only [Status.noteError, h, if_true, Status.flag_setFlag_same]

end Sys2Proof.Machine

open Sys2Proof Sys2Proof.Machine

/-- Settles O8, register by register; a narrow register is zero-extended, so it reads as its own number. -/
theorem registerMapReads : Obligations.RegisterMapReads := by
  intro s
  have narrow : ∀ {n : Nat}, n ≤ 64 → ∀ v : BitVec n, (v.setWidth 64).toNat = v.toNat :=
    fun h _ => BitVec.toNat_setWidth_of_le h
  exact ⟨rfl, narrow (by decide) s.flen, toNat_readReg_crcState s, narrow (by decide) s.crcRx, toNat_readReg_sums s,
    narrow (by decide) s.flRx, rfl, toNat_readReg_raLow s, toNat_readReg_raHigh s, narrow (by decide) s.asm.rl,
    narrow (by decide) s.cSeq, rfl, fun n h => readReg_reserved n s h⟩

/-- Settles O7: the reply is the only thing a read adds, and no register depends on the port or the replies. -/
theorem registerReadHasNoSideEffect : Obligations.RegisterReadHasNoSideEffect := by
  constructor
  · intro s n rest h
    exact ⟨_, step_readReg h, by simp [answerRead], rfl⟩
  · intro s n rest h
    exact ⟨_, _, step_readReg h, step_readReg rfl, by simp [answerRead]⟩

/-- Settles O12: the common protocol counts every word, and no rule touches CSEQ. -/
theorem everyCommandWordIsCounted : Obligations.EveryCommandWordIsCounted := by
  intro s w rest h
  have hb := wordRule_books w (s.setPort rest).count
  refine ⟨_, step_writeCmd h, ?_, ?_⟩
  · rw [conclude_port, hb.port]
    rfl
  · rw [conclude_cSeq, hb.cSeq]
    simp

/-- Settles O15: a rule that is done leaves ERRCMD, and one that raises an error has the host's word recorded. -/
theorem errorWordIsSaved : Obligations.ErrorWordIsSaved := by
  intro s w rest h
  have hb := wordRule_books w (s.setPort rest).count
  refine ⟨_, step_writeCmd h, ?_⟩
  cases hr : wordRule w (s.setPort rest).count with
  | done t =>
    rw [hr] at hb
    refine .inl ⟨by simp, hb.errCmd, ?_⟩
    cases hd : decode w with
    | ok i => exact ⟨i, rfl⟩
    | error e =>
      rw [wordRule_of_error hd] at hr
      cases hr
  | raise e t =>
    refine .inr ⟨e, by simp, t.status.flag_noteError_sticky e w, rfl, fun h => ?_⟩
    exact t.status.flag_noteError_resValid e ((producesRes_iff w).2 h)

end

section
/-!
What a command's own rule writes, said once: single writes, each under the checks its rule makes and by the commands the
spec names for it. Both the frame of every command (10_state R22, R36) and the invariant follow from it.
-/

namespace Sys2Proof.Machine

/-! ### What each write of a rule changes -/

theorem changesOnly_setFb (s : State) (m : Memory) : changesOnly [.fb] s (s.setFb m) := by
  intro p h
  cases p <;> simp_all [keeps]

theorem changesOnly_setFlen (s : State) (v : BitVec 24) : changesOnly [.flen] s (s.setFlen v) := by
  intro p h
  cases p <;> simp_all [keeps]

theorem changesOnly_setStatus (s : State) (st : Status) : changesOnly [] s (s.setStatus st) := by
  intro p _
  cases p <;> simp [keeps]

theorem changesOnly_restartCrc (g : CrcGen) (s : State) : changesOnly [.gen] s (restartCrc g s) := by
  intro p h
  cases p <;> simp_all [keeps]

theorem changesOnly_compareCrc (rx : BitVec 24) (s : State) : changesOnly [.crcRx] s (compareCrc rx s) := by
  intro p h
  cases p <;> simp_all [keeps]

theorem changesOnly_restartFl (c : FlSums) (s : State) : changesOnly [.sums] s (restartFl c s) := by
  intro p h
  cases p <;> simp_all [keeps]

theorem changesOnly_setFlRx_setStatus (rx : BitVec 16) (st : Status) (s : State) :
    changesOnly [.flRx] s ((s.setFlRx rx).setStatus st) := by
  intro p h
  cases p <;> simp_all [keeps]

theorem changesOnly_writeResult (sg : Signedness) (n raw : Nat) (s : State) :
    changesOnly [.res] s (writeResult sg n raw s) := by
  intro p h
  cases p <;> simp_all [keeps, writeResult]

theorem changesOnly_setAsm (s : State) (u : Reasm) : changesOnly [.asm] s (s.setAsm u) := by
  intro p h
  cases p <;> simp_all [keeps]

theorem flagsOnly_of_status_eq {s t : State} (fs : List Flag) (h : t.status = s.status) : flagsOnly fs s t :=
  fun j _ _ => by rw [h]

theorem flagsOnly_clearSticky (s : State) :
    flagsOnly [.truncS, .invS, .illS, .mismatchS] s (s.setStatus s.status.clearSticky) := by
  intro j _ hf
  have h4 : 4 ≠ j := hf .truncS (by simp)
  have h5 : 5 ≠ j := hf .invS (by simp)
  have h6 : 6 ≠ j := hf .illS (by simp)
  have h7 : 7 ≠ j := hf .mismatchS (by simp)
  rw [State.setStatus_status, Status.getLsbD_clearSticky, if_neg (by omega)]

theorem flagsOnly_restartCrc (g : CrcGen) (s : State) : flagsOnly [.crcDone, .crcOk] s (restartCrc g s) := by
  intro j _ hf
  have h8 : 8 ≠ j := hf .crcDone (by simp)
  have h9 : 9 ≠ j := hf .crcOk (by simp)
  rw [restartCrc_status, Status.getLsbD_setCrcCheck, if_neg h9.symm, if_neg h8.symm]

theorem flagsOnly_compareCrc (rx : BitVec 24) (s : State) :
    flagsOnly [.crcDone, .crcOk, .mismatchS] s (compareCrc rx s) := by
  intro j _ hf
  have h7 : 7 ≠ j := hf .mismatchS (by simp)
  have h8 : 8 ≠ j := hf .crcDone (by simp)
  have h9 : 9 ≠ j := hf .crcOk (by simp)
  rw [compareCrc_status, Status.getLsbD_noteMismatch, if_neg h7.symm, Status.getLsbD_setCrcCheck, if_neg h9.symm,
    if_neg h8.symm]

theorem flagsOnly_restartFl (c : FlSums) (s : State) : flagsOnly [.flDone, .flOk] s (restartFl c s) := by
  intro j _ hf
  have h10 : 10 ≠ j := hf .flDone (by simp)
  have h11 : 11 ≠ j := hf .flOk (by simp)
  rw [restartFl_status, Status.getLsbD_setFlCheck, if_neg h11.symm, if_neg h10.symm]

theorem flagsOnly_setFlRx_flOutcome (rx : BitVec 16) (a b : Byte) (s : State) :
    flagsOnly [.flDone, .flOk, .mismatchS] s ((s.setFlRx rx).setStatus (flOutcome a b s)) := by
  intro j _ hf
  have h7 : 7 ≠ j := hf .mismatchS (by simp)
  have h10 : 10 ≠ j := hf .flDone (by simp)
  have h11 : 11 ≠ j := hf .flOk (by simp)
  rw [State.setStatus_status, flOutcome, Status.getLsbD_noteMismatch, if_neg h7.symm, Status.getLsbD_setFlCheck,
    if_neg h11.symm, if_neg h10.symm]

theorem flagsOnly_writeResult (sg : Signedness) (n raw : Nat) (s : State) :
    flagsOnly [.resValid, .resSigned] s (writeResult sg n raw s) := by
  intro j _ hf
  have h12 : 12 ≠ j := hf .resValid (by simp)
  have h13 : 13 ≠ j := hf .resSigned (by simp)
  rw [writeResult, State.setStatus_status, Status.getLsbD_setResult, if_neg h13.symm, if_neg h12.symm]

theorem flag_of_flagsOnly {fs : List Flag} {s t : State} {f : Flag} (h : flagsOnly fs s t) (hf : f ∉ fs) :
    t.status.flag f = s.status.flag f := by
  have hb := f.bit_range
  refine h f.bit (by omega) fun g hg e => hf ?_
  rwa [← Flag.bit_injective e]

theorem reserved_of_flagsOnly {fs : List Flag} {s t : State} {j : Nat} (h : flagsOnly fs s t) (hj : j = 3 ∨ 14 ≤ j) :
    t.status.getLsbD j = s.status.getLsbD j := by
  refine h j (by omega) fun f _ => ?_
  have hb := f.bit_range
  omega

theorem keeps_refl (p : Part) (s : State) : keeps p s s := by
  cases p <;> simp [keeps]

theorem keeps_trans {p : Part} {s t u : State} (h : keeps p s t) (k : keeps p t u) : keeps p s u := by
  cases p with
  | fb => exact fun a => (k a).trans (h a)
  | host => exact ⟨k.1.trans h.1, k.2.trans h.2⟩
  | _ => exact Eq.trans k h

/-! ### What a rule writes at all -/

/-- One write of a rule, in a command whose opcode is `op`: each is made by the commands the spec names for it only, and
after the checks its rule makes. -/
inductive RuleWrite (op : Nat) (s : State) : State → Prop where
  | frameBytes (addr : Nat) (bytes : List Byte) : op ∈ writers .fb → addr + bytes.length ≤ Config.fbBytes →
      RuleWrite op s (s.setFb (s.fb.writeBytes addr bytes))
  | frameLength (len : Nat) : op ∈ writers .flen → len ≤ Config.fbBytes →
      RuleWrite op s (s.setFlen (BitVec.ofNat 24 len))
  | clearSticky : op = 0x03 → RuleWrite op s (s.setStatus s.status.clearSticky)
  | crcClear : op ∈ writers .gen → RuleWrite op s (restartCrc ⟨0, 0, 0⟩ s)
  | crcFeed (bits : List Bool) : op ∈ writers .gen → RuleWrite op s (restartCrc (crcFeed s.gen bits) s)
  | crcCompare (rx : BitVec 24) : op ∈ writers .crcRx → RuleWrite op s (compareCrc rx s)
  | flRestart (c : FlSums) : op ∈ writers .sums → RuleWrite op s (restartFl c s)
  | flCompare (rx : BitVec 16) (a b : Byte) : op ∈ writers .flRx →
      RuleWrite op s ((s.setFlRx rx).setStatus (flOutcome a b s))
  | result (sg : Signedness) (n raw : Nat) : op ∈ writers .res → RuleWrite op s (writeResult sg n raw s)
  | raClear : op ∈ writers .asm → RuleWrite op s (s.setAsm ⟨0, 0⟩)
  | raAppend (raw w : Nat) : op ∈ writers .asm → raw < 2 ^ w → s.asm.rl.toNat + w ≤ 128 →
      RuleWrite op s (s.setAsm (appendChunk s.asm raw w))

/-- Any number of writes of a command whose opcode is `op`. -/
abbrev RuleWrites (op : Nat) : State → State → Prop := Relation.ReflTransGen (RuleWrite op)

theorem RuleWrites.andThen {op : Nat} {s : State} {r : RuleEnd} {f : State → RuleEnd} (h : RuleWrites op s r.kept)
    (hf : ∀ t, RuleWrites op t (f t).kept) : RuleWrites op s (r.andThen f).kept := by
  cases r with
  | done t => exact h.trans (hf t)
  | raise e t => exact h

theorem fbwRule_writes {op : Nat} (hop : op ∈ writers .fb) (addr : Nat) (bytes : List Byte) (s : State) :
    RuleWrites op s (fbwRule addr bytes s).kept := by
  unfold fbwRule
  split
  · exact .refl
  · exact .single (.frameBytes addr bytes hop (by omega))

theorem setlenRule_writes {op : Nat} (hop : op ∈ writers .flen) (len : Nat) (s : State) :
    RuleWrites op s (setlenRule len s).kept := by
  unfold setlenRule
  split
  · exact .refl
  · exact .single (.frameLength len hop (by omega))

theorem extRule_writes {op : Nat} (hop : op ∈ writers .res) (sg : Signedness) (src : Source) (place : FieldAt) (w : Nat)
    (s : State) : RuleWrites op s (extRule sg src place w s).kept := by
  unfold extRule
  split
  · exact .refl
  · exact .single (.result sg w _ hop)

theorem crcInitRule_writes {op : Nat} (hop : op ∈ writers .gen) (s : State) :
    RuleWrites op s (crcInitRule s).kept :=
  .single (.crcClear hop)

theorem crcFeedRule_writes {op : Nat} (hop : op ∈ writers .gen) (k data : Nat) (s : State) :
    RuleWrites op s (crcFeedRule k data s).kept :=
  .single (.crcFeed _ hop)

theorem crcRunRule_writes {op : Nat} (hop : op ∈ writers .gen) (pad off count : Nat) (s : State) :
    RuleWrites op s (crcRunRule pad off count s).kept := by
  rw [crcRunRule_eq]
  split
  · exact .single (.crcFeed _ hop)
  · exact .refl

theorem crcCheckRule_writes {op : Nat} (hop : op ∈ writers .crcRx) (off : Nat) (s : State) :
    RuleWrites op s (crcCheckRule off s).kept := by
  rw [crcCheckRule_eq]
  split
  · exact .refl
  split
  · exact .single (.crcCompare _ hop)
  · exact .refl

theorem crcSbasRule_writes (s : State) : RuleWrites 0x24 s (crcSbasRule s).kept :=
  RuleWrites.andThen (RuleWrites.andThen (crcInitRule_writes (by decide) s) (crcRunRule_writes (by decide) 6 0 226))
    (crcCheckRule_writes (by decide) 226)

theorem flInitRule_writes {op : Nat} (hop : op ∈ writers .sums) (s : State) : RuleWrites op s (flInitRule s).kept :=
  .single (.flRestart _ hop)

theorem flByteRule_writes {op : Nat} (hop : op ∈ writers .sums) (b : Byte) (s : State) :
    RuleWrites op s (flByteRule b s).kept :=
  .single (.flRestart _ hop)

theorem flRunRule_writes {op : Nat} (hop : op ∈ writers .sums) (off count : Nat) (s : State) :
    RuleWrites op s (flRunRule off count s).kept := by
  rw [flRunRule_eq]
  split
  · exact .single (.flRestart _ hop)
  · exact .refl

theorem flCheckRule_writes {op : Nat} (hop : op ∈ writers .flRx) (off : Nat) (s : State) :
    RuleWrites op s (flCheckRule off s).kept := by
  rw [flCheckRule_eq]
  split
  · exact .single (.flCompare _ _ _ hop)
  · exact .refl

theorem flUbxRule_writes (s : State) : RuleWrites 0x34 s (flUbxRule s).kept := by
  unfold flUbxRule
  split
  · exact .refl
  · exact RuleWrites.andThen (RuleWrites.andThen (flInitRule_writes (by decide) s) (flRunRule_writes (by decide) _ _))
      (flCheckRule_writes (by decide) _)

theorem raAppRule_writes {op : Nat} (hop : op ∈ writers .asm) (src : Source) (place : FieldAt) (w : Nat) (s : State) :
    RuleWrites op s (raAppRule src place w s).kept := by
  unfold raAppRule
  split
  next => exact .refl
  next hfit =>
    obtain ⟨-, hcap⟩ := (chunkFits_iff s.asm w).1 (by simpa using hfit)
    split
    next => exact .refl
    next raw hread => exact .single (.raAppend raw w hop (fieldRead_lt s src place w raw hread) hcap)

theorem raApprRule_writes {op : Nat} (hop : op ∈ writers .asm) (w : Nat) (s : State) :
    RuleWrites op s (raApprRule w s).kept := by
  unfold raApprRule
  split
  next => exact .refl
  next hfit =>
    obtain ⟨-, hcap⟩ := (chunkFits_iff s.asm w).1 (by simpa using hfit)
    split
    next => exact .refl
    next => exact .single (.raAppend _ w hop (Nat.mod_lt _ (Nat.two_pow_pos w)) hcap)

theorem raGetRule_writes {op : Nat} (hop : op ∈ writers .res) (sg : Signedness) (s : State) :
    RuleWrites op s (raGetRule sg s).kept := by
  unfold raGetRule
  split
  · exact .refl
  · exact .single (.result sg _ _ hop)

/-- Whatever a command's own rule keeps, it reached by writes that its opcode is named for. -/
theorem rule_writes (i : Instr) (s : State) : RuleWrites i.opcode s (ruleOf i s).kept := by
  cases i with
  | nop => exact .refl
  | fbw1 => exact fbwRule_writes (op := 0x01) (by decide) _ _ _
  | fbw2 => exact fbwRule_writes (op := 0x01) (by decide) _ _ _
  | fbw3 => exact fbwRule_writes (op := 0x01) (by decide) _ _ _
  | setlen => exact setlenRule_writes (op := 0x02) (by decide) _ _
  | clrstat => exact .single (.clearSticky rfl)
  | extBe => exact extRule_writes (op := 0x10) (by decide) _ _ _ _ _
  | extLe => exact extRule_writes (op := 0x10) (by decide) _ _ _ _ _
  | crcInit => exact crcInitRule_writes (by decide) _
  | crcFeed1 => exact crcFeedRule_writes (op := 0x21) (by decide) _ _ _
  | crcFeed2 => exact crcFeedRule_writes (op := 0x21) (by decide) _ _ _
  | crcFeed3 => exact crcFeedRule_writes (op := 0x21) (by decide) _ _ _
  | crcFeed4 => exact crcFeedRule_writes (op := 0x21) (by decide) _ _ _
  | crcFeed5 => exact crcFeedRule_writes (op := 0x21) (by decide) _ _ _
  | crcFeed6 => exact crcFeedRule_writes (op := 0x21) (by decide) _ _ _
  | crcFeed7 => exact crcFeedRule_writes (op := 0x21) (by decide) _ _ _
  | crcFeed8 => exact crcFeedRule_writes (op := 0x21) (by decide) _ _ _
  | crcRun => exact crcRunRule_writes (op := 0x22) (by decide) _ _ _ _
  | crcCheck => exact crcCheckRule_writes (op := 0x23) (by decide) _ _
  | crcSbas => exact crcSbasRule_writes _
  | flInit => exact flInitRule_writes (by decide) _
  | flByte => exact flByteRule_writes (op := 0x31) (by decide) _ _
  | flRun => exact flRunRule_writes (op := 0x32) (by decide) _ _ _
  | flCheck => exact flCheckRule_writes (op := 0x33) (by decide) _ _
  | flUbx => exact flUbxRule_writes _
  | raClr => exact .single (.raClear (by decide))
  | raAppBe => exact raAppRule_writes (op := 0x41) (by decide) _ _ _ _
  | raAppLe => exact raAppRule_writes (op := 0x41) (by decide) _ _ _ _
  | raAppr => exact raApprRule_writes (op := 0x42) (by decide) _ _
  | raGet => exact raGetRule_writes (op := 0x43) (by decide) _ _

/-! ### Only the named commands write -/

/-- From s to t a command with this opcode wrote no part and no check or result flag it is not named for, and no reserved
bit of STATUS. -/
structure WritesNamedOnly (op : Nat) (s t : State) : Prop where
  parts : ∀ p, op ∉ writers p → keeps p s t
  flags : ∀ fw ∈ flagWriters, op ∉ fw.2 → t.status.flag fw.1 = s.status.flag fw.1
  reserved : ∀ j, j = 3 ∨ 14 ≤ j → t.status.getLsbD j = s.status.getLsbD j

theorem WritesNamedOnly.refl (op : Nat) (s : State) : WritesNamedOnly op s s :=
  ⟨fun p _ => keeps_refl p s, fun _ _ _ => rfl, fun _ _ => rfl⟩

theorem WritesNamedOnly.trans {op : Nat} {s t u : State} (h : WritesNamedOnly op s t) (k : WritesNamedOnly op t u) :
    WritesNamedOnly op s u :=
  ⟨fun p hp => keeps_trans (h.parts p hp) (k.parts p hp),
    fun fw hm hop => (k.flags fw hm hop).trans (h.flags fw hm hop),
    fun j hj => (k.reserved j hj).trans (h.reserved j hj)⟩

/-- A change of some parts and some flags, each of which the opcode is named for. -/
theorem WritesNamedOnly.of_frame {op : Nat} {ps : List Part} {fs : List Flag} {s t : State} (hp : changesOnly ps s t)
    (hf : flagsOnly fs s t) (hps : ∀ p ∈ ps, op ∈ writers p)
    (hfs : ∀ fw ∈ flagWriters, op ∉ fw.2 → fw.1 ∉ fs) : WritesNamedOnly op s t :=
  ⟨fun p hop => hp p fun hm => hop (hps p hm), fun fw hm hop => flag_of_flagsOnly hf (hfs fw hm hop),
    fun _ hj => reserved_of_flagsOnly hf hj⟩

/-- The writers of the CRC generator, of CRC_RX, of the Fletcher sums, of FL_RX and of RES are named for the flags that
are written with them (10_state R22). -/
theorem flags_of_gen_writers : ∀ op ∈ writers .gen, ∀ fw ∈ flagWriters, op ∉ fw.2 →
    fw.1 ∉ [Flag.crcDone, Flag.crcOk] := by decide

theorem flags_of_crcRx_writers : ∀ op ∈ writers .crcRx, ∀ fw ∈ flagWriters, op ∉ fw.2 →
    fw.1 ∉ [Flag.crcDone, Flag.crcOk, Flag.mismatchS] := by decide

theorem flags_of_sums_writers : ∀ op ∈ writers .sums, ∀ fw ∈ flagWriters, op ∉ fw.2 →
    fw.1 ∉ [Flag.flDone, Flag.flOk] := by decide

theorem flags_of_flRx_writers : ∀ op ∈ writers .flRx, ∀ fw ∈ flagWriters, op ∉ fw.2 →
    fw.1 ∉ [Flag.flDone, Flag.flOk, Flag.mismatchS] := by decide

theorem flags_of_res_writers : ∀ op ∈ writers .res, ∀ fw ∈ flagWriters, op ∉ fw.2 →
    fw.1 ∉ [Flag.resValid, Flag.resSigned] := by decide

theorem flags_of_clrstat : ∀ fw ∈ flagWriters, 0x03 ∉ fw.2 →
    fw.1 ∉ [Flag.truncS, Flag.invS, Flag.illS, Flag.mismatchS] := by decide

theorem RuleWrite.writesNamedOnly {op : Nat} {s t : State} (h : RuleWrite op s t) : WritesNamedOnly op s t := by
  cases h with
  | frameBytes addr bytes hop =>
    exact .of_frame (changesOnly_setFb s _) (flagsOnly_of_status_eq [] rfl) (by simpa using hop) (by simp)
  | frameLength len hop =>
    exact .of_frame (changesOnly_setFlen s _) (flagsOnly_of_status_eq [] rfl) (by simpa using hop) (by simp)
  | clearSticky hop =>
    subst hop
    exact .of_frame (changesOnly_setStatus s _) (flagsOnly_clearSticky s) (by simp) flags_of_clrstat
  | crcClear hop =>
    exact .of_frame (changesOnly_restartCrc _ s) (flagsOnly_restartCrc _ s) (by simpa using hop)
      (flags_of_gen_writers op hop)
  | crcFeed bits hop =>
    exact .of_frame (changesOnly_restartCrc _ s) (flagsOnly_restartCrc _ s) (by simpa using hop)
      (flags_of_gen_writers op hop)
  | crcCompare rx hop =>
    exact .of_frame (changesOnly_compareCrc rx s) (flagsOnly_compareCrc rx s) (by simpa using hop)
      (flags_of_crcRx_writers op hop)
  | flRestart c hop =>
    exact .of_frame (changesOnly_restartFl c s) (flagsOnly_restartFl c s) (by simpa using hop)
      (flags_of_sums_writers op hop)
  | flCompare rx a b hop =>
    exact .of_frame (changesOnly_setFlRx_setStatus rx _ s) (flagsOnly_setFlRx_flOutcome rx a b s)
      (by simpa using hop) (flags_of_flRx_writers op hop)
  | result sg n raw hop =>
    exact .of_frame (changesOnly_writeResult sg n raw s) (flagsOnly_writeResult sg n raw s) (by simpa using hop)
      (flags_of_res_writers op hop)
  | raClear hop =>
    exact .of_frame (changesOnly_setAsm s _) (flagsOnly_of_status_eq [] rfl) (by simpa using hop) (by simp)
  | raAppend raw w hop =>
    exact .of_frame (changesOnly_setAsm s _) (flagsOnly_of_status_eq [] rfl) (by simpa using hop) (by simp)

theorem RuleWrites.writesNamedOnly {op : Nat} {s t : State} (h : RuleWrites op s t) : WritesNamedOnly op s t := by
  induction h with
  | refl => exact .refl op s
  | tail _ hw ih => exact ih.trans hw.writesNamedOnly

/-- The sticky bits that errors set are none of the check and result flags. -/
theorem sticky_not_named (e : Err) : ∀ fw ∈ flagWriters, fw.1 ≠ e.sticky := by
  cases e <;> decide

/-- The flags an error writes are none of the check and result flags, but RES_VALID for the commands named for it
(60_exceptions R224). -/
theorem flags_of_error (e : Err) (w : Word) : ∀ fw ∈ flagWriters, opField w ∉ fw.2 → fw.1 ∉ errorFlags e w := by
  intro fw hm hop
  have hsticky := sticky_not_named e fw hm
  by_cases hp : producesRes w = true
  · have hres := flags_of_res_writers _ (by simpa [writers] using (producesRes_iff w).1 hp) fw hm hop
    simp_all [errorFlags]
  · simp_all [errorFlags]

theorem flagsOnly_conclude_done (w : Word) (s : State) : flagsOnly [] s (conclude w (.done s)) := by
  intro j hj _
  rw [conclude_done_status, Status.getLsbD_setErr, if_neg (by omega)]

theorem flagsOnly_conclude_raise (w : Word) (e : Err) (s : State) :
    flagsOnly (errorFlags e w) s (conclude w (.raise e s)) := by
  intro j hj hf
  have hsticky : e.sticky.bit ≠ j := hf e.sticky (by cases hp : producesRes w <;> simp [errorFlags, hp])
  have hres : ¬ (j = 12 ∧ producesRes w = true) := fun ⟨h12, hp⟩ => hf .resValid (by simp [errorFlags, hp]) h12.symm
  rw [conclude_raise_status, Status.getLsbD_noteError, if_neg (by omega), if_neg hsticky.symm, if_neg hres]

/-- The common protocol of a command writes nothing its opcode is not named for. -/
theorem conclude_writesNamedOnly (w : Word) (r : RuleEnd) :
    WritesNamedOnly (opField w) r.kept (conclude w r) := by
  have hp : changesOnly [] r.kept (conclude w r) := (changesOnly_conclude [] _ w r).2 fun p _ => keeps_refl p _
  cases r with
  | done s => exact .of_frame hp (flagsOnly_conclude_done w s) (by simp) (by simp)
  | raise e s => exact .of_frame hp (flagsOnly_conclude_raise w e s) (by simp) (flags_of_error e w)

theorem count_writesNamedOnly (op : Nat) (s : State) : WritesNamedOnly op s s.count :=
  .of_frame (ps := []) (fun p _ => keeps_count p s) (flagsOnly_count [] s) (by simp) (by simp)

/-- A whole command: counted, then its rule's writes, then the end of the protocol. -/
theorem exec_writesNamedOnly {i : Instr} {s t : State} (hwf : i.wf = true) (h : exec i s = .next t) :
    WritesNamedOnly i.opcode s t := by
  rw [exec_eq] at h
  cases h
  have hend := conclude_writesNamedOnly (encode i) (ruleOf i s.count)
  rw [opField_encode i hwf] at hend
  exact ((count_writesNamedOnly _ s).trans (rule_writes i s.count).writesNamedOnly).trans hend

end Sys2Proof.Machine

open Sys2Proof Sys2Proof.Machine

/-- Settles O20: what a command's rule writes, and what the common protocol writes, its opcode is named for. -/
theorem onlyNamedCommandsWriteState : Obligations.OnlyNamedCommandsWriteState := by
  intro i s t hwf h
  obtain ⟨hparts, hflags, hreserved⟩ := exec_writesNamedOnly hwf h
  exact ⟨hparts, hflags, hreserved⟩

end

section
/-!
The invariant: each part kept by the write that touches it, so by every rule, every command and every step (10_state
R40).
-/

namespace Sys2Proof.Machine

/-! ### The invariant, part by part -/

/-- The four flags of which each OK flag stands under its DONE flag (10_state R40). -/
def checkFlags : List Flag := [.crcDone, .crcOk, .flDone, .flOk]

theorem Status.wf_setErr {st : Status} {c : BitVec 3} (h : Status.wf st) (hc : c.toNat ≤ 3) :
    Status.wf (st.setErr c) := by
  obtain ⟨hres, -, hcrc, hfl⟩ := h
  refine ⟨fun j hj hr => ?_, by simpa using hc, by simpa using hcrc, by simpa using hfl⟩
  rw [Status.getLsbD_setErr, if_neg (by omega)]
  exact hres j hj hr

theorem Status.wf_setFlag {st : Status} {f : Flag} (v : Bool) (h : Status.wf st) (hf : f ∉ checkFlags) :
    Status.wf (st.setFlag f v) := by
  obtain ⟨hres, herr, hcrc, hfl⟩ := h
  have hb := f.bit_range
  have hsame : ∀ g ∈ checkFlags, (st.setFlag f v).flag g = st.flag g := by
    intro g hg
    have hne : g ≠ f := fun e => hf (e ▸ hg)
    rw [Status.flag_setFlag, if_neg hne]
  refine ⟨fun j hj hr => ?_, by simpa using herr, ?_, ?_⟩
  · rw [Status.getLsbD_setFlag, if_neg (by omega)]
    exact hres j hj hr
  · rwa [hsame _ (by decide), hsame _ (by decide)]
  · rwa [hsame _ (by decide), hsame _ (by decide)]

theorem Status.wf_setCrcCheck {st : Status} (r : Option Bool) (h : Status.wf st) : Status.wf (st.setCrcCheck r) := by
  obtain ⟨hres, herr, -, hfl⟩ := h
  refine ⟨fun j hj hr => ?_, ?_, ?_, ?_⟩
  · rw [Status.getLsbD_setCrcCheck, if_neg (by omega), if_neg (by omega)]
    exact hres j hj hr
  · cases r <;> simpa [Status.setCrcCheck] using herr
  · cases r <;> simp [Status.setCrcCheck, Status.flag_setFlag]
  · cases r <;> simpa [Status.setCrcCheck, Status.flag_setFlag] using hfl

theorem Status.wf_setFlCheck {st : Status} (r : Option Bool) (h : Status.wf st) : Status.wf (st.setFlCheck r) := by
  obtain ⟨hres, herr, hcrc, -⟩ := h
  refine ⟨fun j hj hr => ?_, ?_, ?_, ?_⟩
  · rw [Status.getLsbD_setFlCheck, if_neg (by omega), if_neg (by omega)]
    exact hres j hj hr
  · cases r <;> simpa [Status.setFlCheck] using herr
  · cases r <;> simpa [Status.setFlCheck, Status.flag_setFlag] using hcrc
  · cases r <;> simp [Status.setFlCheck, Status.flag_setFlag]

theorem Status.wf_noteMismatch {st : Status} (ok : Bool) (h : Status.wf st) : Status.wf (st.noteMismatch ok) := by
  cases ok with
  | true => exact h
  | false => exact Status.wf_setFlag true h (by decide)

theorem Status.wf_clearSticky {st : Status} (h : Status.wf st) : Status.wf st.clearSticky :=
  have htrunc := Status.wf_setFlag (f := .truncS) false h (by decide)
  have hinv := Status.wf_setFlag (f := .invS) false htrunc (by decide)
  have hill := Status.wf_setFlag (f := .illS) false hinv (by decide)
  Status.wf_setFlag (f := .mismatchS) false hill (by decide)

theorem Status.wf_setResult {st : Status} (sg : Bool) (h : Status.wf st) : Status.wf (st.setResult sg) :=
  Status.wf_setFlag sg (Status.wf_setFlag true h (by decide)) (by decide)

theorem Err.toNat_code_le (e : Err) : e.code.toNat ≤ 3 := by cases e <;> decide

theorem Err.sticky_not_check (e : Err) : e.sticky ∉ checkFlags := by cases e <;> decide

theorem Status.wf_noteError {st : Status} (e : Err) (w : Word) (h : Status.wf st) : Status.wf (st.noteError e w) := by
  have hs := Status.wf_setFlag true (Status.wf_setErr h e.toNat_code_le) e.sticky_not_check
  unfold Status.noteError
  split
  · exact Status.wf_setFlag false hs (by decide)
  · exact hs

theorem Reasm.wf_empty : Reasm.wf ⟨0, 0⟩ := by decide

/-- An append that fits keeps RA below 2^RL: the chunk fills the W low bits, the earlier bits move up by W. -/
theorem Reasm.wf_appendChunk {u : Reasm} {raw w : Nat} (h : Reasm.wf u) (hraw : raw < 2 ^ w)
    (hcap : u.rl.toNat + w ≤ 128) : Reasm.wf (appendChunk u raw w) := by
  obtain ⟨-, hra⟩ := h
  unfold Reasm.wf
  rw [rl_appendChunk u raw w hcap]
  refine ⟨hcap, Nat.lt_pow_two_of_testBit _ fun j hj => ?_⟩
  by_cases h128 : j < 128
  · have hbit := getLsbD_appendChunk u raw w j hraw h128
    rw [if_neg (by omega)] at hbit
    refine hbit.trans (Nat.testBit_lt_two_pow (Nat.lt_of_lt_of_le hra (Nat.pow_le_pow_right (by omega) ?_)))
    omega
  · exact BitVec.getLsbD_of_ge _ _ (by omega)

theorem Invariant.setStatus {s : State} {st : Status} (h : Invariant s) (hst : Status.wf st) :
    Invariant (s.setStatus st) := by
  obtain ⟨hfb, hcells, hflen, hdcnt, hcrc, hd, hasm, -⟩ := h
  exact ⟨hfb, hcells, hflen, hdcnt, hcrc, hd, hasm, hst⟩

theorem Invariant.setAsm {s : State} {u : Reasm} (h : Invariant s) (hu : Reasm.wf u) : Invariant (s.setAsm u) := by
  obtain ⟨hfb, hcells, hflen, hdcnt, hcrc, hd, -, hst⟩ := h
  exact ⟨hfb, hcells, hflen, hdcnt, hcrc, hd, hu, hst⟩

/-- The widths of CRC and DCNT bound them; only D has a bound to keep. -/
theorem Invariant.setGen {s : State} {g : CrcGen} (h : Invariant s) (hg : g.d.toNat < 2 ^ g.dcnt.toNat) :
    Invariant (s.setGen g) := by
  obtain ⟨hfb, hcells, hflen, -, -, -, hasm, hst⟩ := h
  exact ⟨hfb, hcells, hflen, Nat.le_of_lt_succ g.dcnt.isLt, g.crc.isLt, hg, hasm, hst⟩

theorem Invariant.setFlen {s : State} {v : BitVec 24} (h : Invariant s) (hv : v.toNat ≤ Config.fbBytes) :
    Invariant (s.setFlen v) := by
  obtain ⟨hfb, hcells, -, hdcnt, hcrc, hd, hasm, hst⟩ := h
  exact ⟨hfb, hcells, hv, hdcnt, hcrc, hd, hasm, hst⟩

theorem Invariant.writeBytes {s : State} {addr : Nat} {bytes : List Byte} (h : Invariant s)
    (hfit : addr + bytes.length ≤ Config.fbBytes) : Invariant (s.setFb (s.fb.writeBytes addr bytes)) := by
  obtain ⟨hfb, hcells, hflen, hdcnt, hcrc, hd, hasm, hst⟩ := h
  refine ⟨Memory.wf_writeBytes bytes s.fb addr hfb, fun c hc => ?_, hflen, hdcnt, hcrc, hd, hasm, hst⟩
  rcases Memory.mem_writeBytes bytes s.fb addr c hc with ⟨-, hlt⟩ | hold
  · omega
  · exact hcells c hold

theorem Invariant.status_wf {s : State} (h : Invariant s) : Status.wf s.status := by
  obtain ⟨-, -, -, -, -, -, -, hst⟩ := h
  exact hst

theorem Invariant.d_lt {s : State} (h : Invariant s) : s.gen.d.toNat < 2 ^ s.gen.dcnt.toNat := by
  obtain ⟨-, -, -, -, -, hd, -, -⟩ := h
  exact hd

theorem Invariant.asm_wf {s : State} (h : Invariant s) : Reasm.wf s.asm := by
  obtain ⟨-, -, -, -, -, -, hasm, -⟩ := h
  exact hasm

theorem Invariant.restartCrc {s : State} {g : CrcGen} (h : Invariant s) (hg : g.d.toNat < 2 ^ g.dcnt.toNat) :
    Invariant (restartCrc g s) :=
  (h.setGen hg).setStatus (Status.wf_setCrcCheck none h.status_wf)

/-! ### The invariant, step by step -/

theorem RuleWrite.keeps_invariant {op : Nat} {s t : State} (hw : RuleWrite op s t) (h : Invariant s) :
    Invariant t := by
  have hst := h.status_wf
  cases hw with
  | frameBytes addr bytes _ hfit => exact h.writeBytes hfit
  | frameLength len _ hlen =>
    refine h.setFlen ?_
    rw [BitVec.toNat_ofNat]
    exact (Nat.mod_le _ _).trans hlen
  | clearSticky => exact h.setStatus (Status.wf_clearSticky hst)
  | crcClear => exact h.restartCrc (by decide)
  | crcFeed bits => exact h.restartCrc (crcFeed_d_lt bits s.gen h.d_lt)
  | crcCompare rx => exact h.setStatus (Status.wf_noteMismatch _ (Status.wf_setCrcCheck _ hst))
  | flRestart c => exact h.setStatus (Status.wf_setFlCheck none hst)
  | flCompare rx a b => exact h.setStatus (Status.wf_noteMismatch _ (Status.wf_setFlCheck _ hst))
  | result sg n raw => exact h.setStatus (Status.wf_setResult _ hst)
  | raClear => exact h.setAsm Reasm.wf_empty
  | raAppend raw w _ hraw hcap => exact h.setAsm (Reasm.wf_appendChunk h.asm_wf hraw hcap)

theorem RuleWrites.keeps_invariant {op : Nat} {s t : State} (hw : RuleWrites op s t) (h : Invariant s) :
    Invariant t := by
  induction hw with
  | refl => exact h
  | tail _ hlast ih => exact hlast.keeps_invariant ih

theorem wordRule_keeps_invariant {w : Word} {s : State} (h : Invariant s) : Invariant (wordRule w s).kept := by
  cases hd : decode w with
  | ok i =>
    rw [wordRule_of_ok hd]
    exact (rule_writes i s).keeps_invariant h
  | error e =>
    rw [wordRule_of_error hd]
    exact h

theorem conclude_keeps_invariant {w : Word} {r : RuleEnd} (h : Invariant r.kept) : Invariant (conclude w r) := by
  cases r with
  | done s => exact Invariant.setStatus (s := s) h (Status.wf_setErr h.status_wf (by decide))
  | raise e s => exact Invariant.setStatus (s := s) h (Status.wf_noteError e w h.status_wf)

theorem invariant_reset : Invariant State.reset :=
  ⟨List.Pairwise.nil, by simp [State.reset], by decide, by decide, by decide, by decide, Reasm.wf_empty, by decide⟩

/-- By the host's oldest operation: a command word, a register read, which changes no register, or a reset. -/
theorem step_keeps_invariant {s t : State} (h : Invariant s) (hstep : step s = .next t) : Invariant t := by
  match hport : s.port with
  | [] =>
    rw [step_of_port_nil hport] at hstep
    cases hstep
    exact h
  | .writeCmd w :: rest =>
    rw [step_writeCmd hport] at hstep
    cases hstep
    exact conclude_keeps_invariant (wordRule_keeps_invariant (s := (s.setPort rest).count) h)
  | .readReg n :: rest =>
    rw [step_readReg hport] at hstep
    cases hstep
    exact h
  | .reset :: rest =>
    rw [step_reset hport] at hstep
    cases hstep
    exact invariant_reset

end Sys2Proof.Machine

open Sys2Proof Sys2Proof.Machine

/-- Settles O10: every register is 0 and no byte is written. -/
theorem resetStateMeetsInvariant : Obligations.ResetStateMeetsInvariant := invariant_reset

/-- Settles O11: every write of a rule keeps each part of the invariant, and so does the common protocol. -/
theorem stepKeepsInvariant : Obligations.StepKeepsInvariant :=
  fun _ _ h hstep => step_keeps_invariant h hstep

end


section
/-!
The source buffers: RB as the left-aligned view of RA (20_memory R63), and what a command can see of FB, which is the
frame (20_memory R61, R62).
-/

namespace Sys2Proof.Machine

/-! ### RB, bit by bit -/

/-- Stream bit k of RB is bit 127 - k of the view: byte k div 8, counted from the top byte (20_memory R63). -/
theorem streamBit_rbByte (u : Reasm) {k : Nat} (hk : k < 128) :
    streamBit (rbByte u) k = (rbView u).getLsbD (127 - k) := by
  rw [streamBit, getLsbD_rbByte u _ _ (by omega), show 120 - 8 * (k / 8) + (7 - k % 8) = 127 - k by omega]

/-- The view's top RL bits are RA's, and the bits below them are 0. -/
theorem getLsbD_rbView (u : Reasm) {k : Nat} (hrl : u.rl.toNat ≤ 128) (hk : k < 128) :
    (rbView u).getLsbD (127 - k) = if k < u.rl.toNat then u.ra.getLsbD (u.rl.toNat - 1 - k) else false := by
  rw [rbView, Config.raBits, BitVec.getLsbD_shiftLeft]
  by_cases h : k < u.rl.toNat
  · have habove : ¬ 127 - k < 128 - u.rl.toNat := by omega
    rw [if_pos h, show 127 - k - (128 - u.rl.toNat) = u.rl.toNat - 1 - k by omega]
    simp [habove, show 127 - k < 128 by omega]
  · have hbelow : 127 - k < 128 - u.rl.toNat := by omega
    simp [h, hbelow]

/-! ### The operand forms depend on the bytes inside their bounds only -/

theorem memRead_congr {buf buf' : Nat → Byte} {len a n : Nat} (h : ∀ i < len, buf i = buf' i) (hn : a + n ≤ len) :
    memRead buf a n = memRead buf' a n :=
  List.map_congr_left fun i hi => h _ (by have := List.mem_range.1 hi; omega)

theorem loadLE_congr {buf buf' : Nat → Byte} {len a n : Nat} (h : ∀ i < len, buf i = buf' i) (hn : a + n ≤ len) :
    loadLE buf a n = loadLE buf' a n := by
  rw [loadLE, memRead_congr h hn, loadLE]

theorem streamBits_congr_bytes {buf buf' : Nat → Byte} {len off n : Nat} (h : ∀ i < len, buf i = buf' i)
    (hn : off + n ≤ 8 * len) : streamBits buf off n = streamBits buf' off n :=
  streamBits_congr _ _ _ _ fun _ _ => streamBit_congr _ _ _ (h _ (by omega))

theorem streamField_congr {buf buf' : Nat → Byte} {len off w : Nat} (h : ∀ i < len, buf i = buf' i)
    (hw : off + w ≤ 8 * len) : streamField buf off w = streamField buf' off w := by
  rw [streamField, streamBits_congr_bytes h hw, streamField]

/-! ### A frame buffer that differs beyond the frame -/

/-- The memory reads as FB at every address of the frame. -/
def AgreesInFrame (s : State) (m : Memory) : Prop := ∀ a < s.flen.toNat, m.read a = s.fb.read a

theorem AgreesInFrame.of_keeps {s t : State} {m : Memory} (h : AgreesInFrame s m) (hfb : keeps .fb s t)
    (hlen : keeps .flen s t) : AgreesInFrame t m := by
  intro a ha
  rw [hlen] at ha
  rw [hfb a, h a ha]

/-- A command that writes neither FB nor FLEN keeps the agreement. -/
theorem AgreesInFrame.of_writes {op : Nat} {s t : State} {m : Memory} (h : AgreesInFrame s m) (hw : RuleWrites op s t)
    (hfb : op ∉ writers .fb) (hlen : op ∉ writers .flen) : AgreesInFrame t m :=
  h.of_keeps (hw.writesNamedOnly.parts .fb hfb) (hw.writesNamedOnly.parts .flen hlen)

section Reads

variable {s : State} {m : Memory} (h : AgreesInFrame s m)
include h

theorem AgreesInFrame.fbByte_eq : ∀ a < s.flen.toNat, (s.setFb m).fbByte a = s.fbByte a := by
  intro a ha
  simp only [State.fbByte, State.setFb_fb, State.setFb_draws, h a ha]

/-- RB is no part of FB, so it has the same bytes. -/
theorem AgreesInFrame.buffer_eq (src : Source) :
    ∀ a < s.bufferLen src, (s.setFb m).buffer src a = s.buffer src a := by
  cases src with
  | fb => exact h.fbByte_eq
  | rb => exact fun _ _ => rfl

/-- A field is read only after its bounds are checked. -/
theorem AgreesInFrame.fieldRead_eq (src : Source) (place : FieldAt) (w : Nat) :
    fieldRead (s.setFb m) src place w = fieldRead s src place w := by
  have hlen : (s.setFb m).bufferLen src = s.bufferLen src := by cases src <;> rfl
  cases place with
  | be off =>
    rw [fieldRead_be, fieldRead_be, hlen]
    split
    · rfl
    split
    · rfl
    · rw [streamField_congr (h.buffer_eq src) (by omega)]
  | le nc addr p =>
    rw [fieldRead_le, fieldRead_le, hlen]
    split
    · rfl
    split
    · rfl
    split
    · rfl
    · rw [loadLE_congr (h.buffer_eq src) (by omega)]

end Reads

/-! ### Rules that depend on the frame only -/

/-- A rule's end with the frame buffer of its state replaced. -/
def RuleEnd.withFb (m : Memory) : RuleEnd → RuleEnd
  | .done s => .done (s.setFb m)
  | .raise e s => .raise e (s.setFb m)

/-- The common protocol looks at no byte of FB. -/
theorem conclude_withFb (w : Word) (m : Memory) (r : RuleEnd) : conclude w (r.withFb m) = (conclude w r).setFb m := by
  cases r <;> rfl

/-- The rule writes no byte of FB and ends the same whatever stands beyond the frame. -/
def DependsOnFrame (f : State → RuleEnd) : Prop :=
  ∀ s m, AgreesInFrame s m → f (s.setFb m) = (f s).withFb m

/-- The next step of a compound command, after steps that kept the agreement. -/
theorem DependsOnFrame.andThen_withFb {g : State → RuleEnd} {r : RuleEnd} {m : Memory} (hg : DependsOnFrame g)
    (h : AgreesInFrame r.kept m) : (r.withFb m).andThen g = (r.andThen g).withFb m := by
  cases r with
  | done t => exact hg t m h
  | raise e t => rfl

theorem setlenRule_dependsOnFrame (len : Nat) : DependsOnFrame (setlenRule len) := by
  intro s m _
  unfold setlenRule
  split <;> rfl

theorem extRule_dependsOnFrame (sg : Signedness) (src : Source) (place : FieldAt) (w : Nat) :
    DependsOnFrame (extRule sg src place w) := by
  intro s m h
  rw [extRule, extRule, h.fieldRead_eq]
  split <;> rfl

theorem crcInitRule_dependsOnFrame : DependsOnFrame crcInitRule := fun _ _ _ => rfl

theorem crcFeedRule_dependsOnFrame (k data : Nat) : DependsOnFrame (crcFeedRule k data) := fun _ _ _ => rfl

theorem crcRunRule_dependsOnFrame (pad off count : Nat) : DependsOnFrame (crcRunRule pad off count) := by
  intro s m h
  rw [crcRunRule_eq, crcRunRule_eq, State.setFb_flen]
  split
  next hfit =>
    rw [streamBits_congr_bytes h.fbByte_eq hfit]
    rfl
  next => rfl

theorem crcCheckRule_dependsOnFrame (off : Nat) : DependsOnFrame (crcCheckRule off) := by
  intro s m h
  rw [crcCheckRule_eq, crcCheckRule_eq, State.setFb_gen, State.setFb_flen]
  split
  next => rfl
  next =>
    split
    next hfit =>
      rw [streamField_congr h.fbByte_eq hfit]
      rfl
    next => rfl

/-- Step by step, none of which writes FB or FLEN (42_crc24q R161). -/
theorem crcSbasRule_dependsOnFrame : DependsOnFrame crcSbasRule := by
  intro s m h
  have hinit : RuleWrites 0x24 s (crcInitRule s).kept := crcInitRule_writes (by decide) s
  have hrun := hinit.andThen (crcRunRule_writes (by decide) 6 0 226)
  rw [crcSbasRule, crcSbasRule, crcInitRule_dependsOnFrame s m h,
    (crcRunRule_dependsOnFrame 6 0 226).andThen_withFb (h.of_writes hinit (by decide) (by decide)),
    (crcCheckRule_dependsOnFrame 226).andThen_withFb (h.of_writes hrun (by decide) (by decide))]

theorem flInitRule_dependsOnFrame : DependsOnFrame flInitRule := fun _ _ _ => rfl

theorem flByteRule_dependsOnFrame (b : Byte) : DependsOnFrame (flByteRule b) := fun _ _ _ => rfl

theorem flRunRule_dependsOnFrame (off count : Nat) : DependsOnFrame (flRunRule off count) := by
  intro s m h
  rw [flRunRule_eq, flRunRule_eq, State.setFb_flen]
  split
  next hfit =>
    rw [memRead_congr h.fbByte_eq hfit]
    rfl
  next => rfl

theorem flCheckRule_dependsOnFrame (off : Nat) : DependsOnFrame (flCheckRule off) := by
  intro s m h
  rw [flCheckRule_eq, flCheckRule_eq, State.setFb_flen]
  split
  next hfit =>
    rw [loadLE_congr h.fbByte_eq hfit, h.fbByte_eq off (by omega), h.fbByte_eq (off + 1) (by omega)]
    rfl
  next => rfl

/-- The length field is read only once it is known to lie in the frame; then step by step (43_fletcher8 R186, R187). -/
theorem flUbxRule_dependsOnFrame : DependsOnFrame flUbxRule := by
  intro s m h
  have hhas : (s.setFb m).frameHas 0 6 = s.frameHas 0 6 := rfl
  rw [flUbxRule, flUbxRule, hhas]
  split
  next => rfl
  next hlen =>
    have hfield : 0 + 6 ≤ s.flen.toNat := (frameHas_iff _ _ _).1 (by simpa using hlen)
    have hubx : ubxLength (s.setFb m) = ubxLength s := loadLE_congr h.fbByte_eq (by omega)
    have hinit : RuleWrites 0x34 s (flInitRule s).kept := flInitRule_writes (by decide) s
    have hrun := hinit.andThen (flRunRule_writes (by decide) 2 (4 + ubxLength s))
    rw [hubx, flInitRule_dependsOnFrame s m h,
      (flRunRule_dependsOnFrame _ _).andThen_withFb (h.of_writes hinit (by decide) (by decide)),
      (flCheckRule_dependsOnFrame _).andThen_withFb (h.of_writes hrun (by decide) (by decide))]

theorem raAppRule_dependsOnFrame (src : Source) (place : FieldAt) (w : Nat) :
    DependsOnFrame (raAppRule src place w) := by
  intro s m h
  rw [raAppRule, raAppRule, State.setFb_asm, h.fieldRead_eq]
  split
  · rfl
  split <;> rfl

theorem raApprRule_dependsOnFrame (w : Nat) : DependsOnFrame (raApprRule w) := by
  intro s m _
  rw [raApprRule, raApprRule, State.setFb_asm, State.setFb_status]
  split
  · rfl
  split <;> rfl

theorem raGetRule_dependsOnFrame (sg : Signedness) : DependsOnFrame (raGetRule sg) := by
  intro s m _
  rw [raGetRule, raGetRule, State.setFb_asm]
  split <;> rfl

/-- Every command that is not a frame-buffer write depends on the frame only. -/
theorem rule_dependsOnFrame (i : Instr) (hi : i.opcode ∉ writers .fb) : DependsOnFrame (ruleOf i) := by
  cases i with
  | nop => exact fun _ _ _ => rfl
  | fbw1 => exact absurd (List.mem_singleton.2 rfl) hi
  | fbw2 => exact absurd (List.mem_singleton.2 rfl) hi
  | fbw3 => exact absurd (List.mem_singleton.2 rfl) hi
  | setlen => exact setlenRule_dependsOnFrame _
  | clrstat => exact fun _ _ _ => rfl
  | extBe => exact extRule_dependsOnFrame _ _ _ _
  | extLe => exact extRule_dependsOnFrame _ _ _ _
  | crcInit => exact crcInitRule_dependsOnFrame
  | crcFeed1 => exact crcFeedRule_dependsOnFrame _ _
  | crcFeed2 => exact crcFeedRule_dependsOnFrame _ _
  | crcFeed3 => exact crcFeedRule_dependsOnFrame _ _
  | crcFeed4 => exact crcFeedRule_dependsOnFrame _ _
  | crcFeed5 => exact crcFeedRule_dependsOnFrame _ _
  | crcFeed6 => exact crcFeedRule_dependsOnFrame _ _
  | crcFeed7 => exact crcFeedRule_dependsOnFrame _ _
  | crcFeed8 => exact crcFeedRule_dependsOnFrame _ _
  | crcRun => exact crcRunRule_dependsOnFrame _ _ _
  | crcCheck => exact crcCheckRule_dependsOnFrame _
  | crcSbas => exact crcSbasRule_dependsOnFrame
  | flInit => exact flInitRule_dependsOnFrame
  | flByte => exact flByteRule_dependsOnFrame _
  | flRun => exact flRunRule_dependsOnFrame _ _
  | flCheck => exact flCheckRule_dependsOnFrame _
  | flUbx => exact flUbxRule_dependsOnFrame
  | raClr => exact fun _ _ _ => rfl
  | raAppBe => exact raAppRule_dependsOnFrame _ _ _
  | raAppLe => exact raAppRule_dependsOnFrame _ _ _
  | raAppr => exact raApprRule_dependsOnFrame _
  | raGet => exact raGetRule_dependsOnFrame _

/-! ### FB beyond the frame stays apart from the rest -/

/-- From s, and from s with the frame buffer m, the rule ends the same but for bytes of FB beyond the frame of s. -/
def EndsAlike (f : State → RuleEnd) (s : State) (m : Memory) : Prop :=
  ∃ m', f (s.setFb m) = (f s).withFb m' ∧ ∀ a < s.flen.toNat, m'.read a = (f s).kept.fb.read a

/-- FBW writes the same bytes into both memories, or none into either (40_control R111). -/
theorem fbwRule_endsAlike (addr : Nat) (bytes : List Byte) {s : State} {m : Memory} (h : AgreesInFrame s m) :
    EndsAlike (fbwRule addr bytes) s m := by
  unfold EndsAlike fbwRule
  split
  next => exact ⟨m, rfl, h⟩
  next =>
    refine ⟨m.writeBytes addr bytes, rfl, fun a ha => ?_⟩
    simp only [RuleEnd.kept_done, State.setFb_fb, Memory.read_writeBytes, h a ha]

/-- A rule that writes no byte of FB leaves both memories as they were. -/
theorem DependsOnFrame.endsAlike {f : State → RuleEnd} {s : State} {m : Memory} (hf : DependsOnFrame f)
    (h : AgreesInFrame s m) (hk : keeps .fb s (f s).kept) : EndsAlike f s m :=
  ⟨m, hf s m h, fun a ha => (h a ha).trans (hk a).symm⟩

theorem rule_endsAlike (i : Instr) {s : State} {m : Memory} (h : AgreesInFrame s m) : EndsAlike (ruleOf i) s m := by
  by_cases hi : i.opcode ∈ writers .fb
  · cases i with
    | fbw1 => exact fbwRule_endsAlike _ _ h
    | fbw2 => exact fbwRule_endsAlike _ _ h
    | fbw3 => exact fbwRule_endsAlike _ _ h
    | _ => simp [Instr.opcode, writers] at hi
  · exact (rule_dependsOnFrame i hi).endsAlike h ((rule_writes i s).writesNamedOnly.parts .fb hi)

end Sys2Proof.Machine

open Sys2Proof Sys2Proof.Machine

/-- Settles O19: the rule ends alike, and the common protocol around it looks at no byte of FB. -/
theorem bytesBeyondFrameAreNotRead : Obligations.BytesBeyondFrameAreNotRead := by
  intro i s m h
  obtain ⟨m', hend, hread⟩ := rule_endsAlike i (s := s.count) h
  refine ⟨_, m', exec_eq i s, ?_, ?_⟩
  · rw [exec_eq, ← conclude_withFb, ← hend]
    rfl
  · rwa [conclude_fb]

/-- Settles O57: a stream bit of RB is a bit of the view, and the view is RA shifted up to the top. -/
theorem reassemblyBufferIsLeftAligned : Obligations.ReassemblyBufferIsLeftAligned := by
  intro s
  refine ⟨rfl, fun ⟨hrl, _⟩ k hk => ?_⟩
  exact (streamBit_rbByte s.asm hk).trans (getLsbD_rbView s.asm hrl hk)

end

section
/-!
The two round trips of the encoding (30_encoding R82 to R95): the four fields the encoder writes, and each format read
back from them.
-/

namespace Sys2Proof

/-- What the encoder writes in field F (30_encoding R84 to R92). -/
@[simp] def Instr.fBits : Instr → Nat
  | .fbw1 _ _ => 1
  | .fbw2 _ _ => 2
  | .fbw3 _ _ => 3
  | .extBe sg src _ _ => fOfBe sg src
  | .extLe sg src nc _ _ _ => fOfLe sg src nc
  | .crcFeed1 _ => 1
  | .crcFeed2 _ => 2
  | .crcFeed3 _ => 3
  | .crcFeed4 _ => 4
  | .crcFeed5 _ => 5
  | .crcFeed6 _ => 6
  | .crcFeed7 _ => 7
  | .crcFeed8 _ => 8
  | .crcRun pad _ _ => pad
  | .raAppBe src _ _ => fOfBe .unsigned src
  | .raAppLe src nc _ _ _ => fOfLe .unsigned src nc
  | .raGet sg => sg.code
  | _ => 0

/-- What the encoder writes in field A (30_encoding R84 to R92). -/
@[simp] def Instr.aBits : Instr → Nat
  | .fbw1 addr _ => addr
  | .fbw2 addr _ => addr
  | .fbw3 addr _ => addr
  | .setlen len => len
  | .extBe _ _ off _ => off
  | .extLe _ _ _ addr _ _ => addr
  | .crcRun _ off _ => off
  | .crcCheck off => off
  | .flRun off _ => off
  | .flCheck off => off
  | .raAppBe _ off _ => off
  | .raAppLe _ _ addr _ _ => addr
  | _ => 0

/-- What the encoder writes in field B (30_encoding R84 to R92). -/
@[simp] def Instr.bBits : Instr → Nat
  | .fbw1 _ data => data.toNat
  | .fbw2 _ data => data.toNat
  | .fbw3 _ data => data.toNat
  | .extBe _ _ _ w => w
  | .extLe _ _ _ _ w p => w + 256 * p
  | .crcFeed1 data => data.toNat
  | .crcFeed2 data => data.toNat
  | .crcFeed3 data => data.toNat
  | .crcFeed4 data => data.toNat
  | .crcFeed5 data => data.toNat
  | .crcFeed6 data => data.toNat
  | .crcFeed7 data => data.toNat
  | .crcFeed8 data => data.toNat
  | .crcRun _ _ count => count
  | .flByte data => data.toNat
  | .flRun _ count => count
  | .raAppBe _ _ w => w
  | .raAppLe _ _ _ w p => w + 256 * p
  | .raAppr w => w
  | _ => 0

theorem encode_eq_commandWord (i : Instr) : encode i = commandWord i.opcode i.fBits i.aBits i.bBits := by
  cases i <;> rfl

theorem Instr.opcode_lt (i : Instr) : i.opcode < 2 ^ 8 := by
  cases i <;> simp [opcode]

theorem Instr.fBits_lt {i : Instr} (h : i.wf = true) : i.fBits < 2 ^ 8 := by
  cases i with
  | extBe | raAppBe => exact fOfBe_lt _ _
  | extLe | raAppLe => exact fOfLe_lt _ _ _
  | crcRun =>
    simp only [wf, decide_eq_true_eq] at h
    simp only [fBits]
    omega
  | raGet sg => exact sg.code_lt.trans (by decide)
  | _ => simp [fBits]

theorem Instr.aBits_lt {i : Instr} (h : i.wf = true) : i.aBits < 2 ^ 24 := by
  cases i with
  | fbw1 | fbw2 | fbw3 | setlen | extBe | extLe | crcRun | crcCheck | flRun | flCheck | raAppBe | raAppLe =>
    simp only [wf, decide_eq_true_eq] at h
    simp only [aBits]
    omega
  | _ => exact (by decide : 0 < 2 ^ 24)

theorem Instr.bBits_lt {i : Instr} (h : i.wf = true) : i.bBits < 2 ^ 24 := by
  cases i with
  | extBe | extLe | crcRun | flRun | raAppBe | raAppLe | raAppr =>
    simp only [wf, decide_eq_true_eq] at h
    simp only [bBits]
    omega
  | fbw1 | fbw2 | fbw3 | crcFeed1 | crcFeed2 | crcFeed3 | crcFeed4 | crcFeed5 | crcFeed6 | crcFeed7 | crcFeed8
  | flByte =>
    simp only [bBits]
    omega
  | _ => exact (by decide : 0 < 2 ^ 24)

theorem fField_encode {i : Instr} (h : i.wf = true) : fField (encode i) = i.fBits := by
  rw [encode_eq_commandWord]
  exact fField_commandWord _ _ _ _ i.opcode_lt (Instr.fBits_lt h) (Instr.aBits_lt h) (Instr.bBits_lt h)

theorem aField_encode {i : Instr} (h : i.wf = true) : aField (encode i) = i.aBits := by
  rw [encode_eq_commandWord]
  exact aField_commandWord _ _ _ _ i.opcode_lt (Instr.fBits_lt h) (Instr.aBits_lt h) (Instr.bBits_lt h)

theorem bField_encode {i : Instr} (h : i.wf = true) : bField (encode i) = i.bBits := by
  rw [encode_eq_commandWord]
  exact bField_commandWord _ _ _ _ i.opcode_lt (Instr.fBits_lt h) (Instr.aBits_lt h) (Instr.bBits_lt h)

/-- A number has no bit at or above its width. -/
theorem bitField_eq_zero_of_lt {hi lo v : Nat} (h : v < 2 ^ lo) : bitField hi lo v = 0 := by
  rw [bitField, Nat.div_eq_of_lt h, Nat.zero_mod]

/-- The field of all its bits is the number. -/
theorem bitField_of_lt {hi v : Nat} (h : v < 2 ^ (hi + 1)) : bitField hi 0 v = v := by
  rw [bitField, Nat.pow_zero, Nat.div_one, Nat.sub_zero, Nat.mod_eq_of_lt h]

/-! ### Each format read back from its fields -/

theorem decodeZ_of_fields {w : Word} (i : Instr) (hf : fField w = 0) (ha : aField w = 0) (hb : bField w = 0) :
    decodeZ w i = .ok i := if_pos ⟨hf, ha, hb⟩

theorem decodeA_of_fields {w : Word} {a : Nat} (mk : Nat → Instr) (hf : fField w = 0) (ha : aField w = a)
    (hb : bField w = 0) : decodeA w mk = .ok (mk a) := by
  rw [decodeA, if_pos ⟨hf, hb⟩, ha]

theorem decodeFeedBits_of_field {w : Word} {k : Nat} {data : BitVec k} (mk : BitVec k → Instr)
    (hb : bField w = data.toNat) : decodeFeedBits k w mk = .ok (mk data) := by
  rw [decodeFeedBits, hb, if_pos data.isLt, BitVec.ofNat_toNat, BitVec.setWidth_eq]

section FormatX

variable {w : Word} {mayBeSigned : Bool} {mkBe : Signedness → Source → Nat → Nat → Instr}
  {mkLe : Signedness → Source → Container → Nat → Nat → Nat → Instr} {sg : Signedness} {src : Source} {nc : Container}
  {a width p : Nat}

/-- Every bit of the big-endian form's F is read back. -/
theorem bitFields_fOfBe (sg : Signedness) (src : Source) :
    bitField 7 5 (fOfBe sg src) = 0 ∧ bitField 4 4 (fOfBe sg src) = src.code ∧
    bitField 3 2 (fOfBe sg src) = 0 ∧ bitField 1 1 (fOfBe sg src) = 0 ∧ bitField 0 0 (fOfBe sg src) = sg.code := by
  cases sg <;> cases src <;> decide

/-- Every bit of the little-endian form's F is read back. -/
theorem bitFields_fOfLe (sg : Signedness) (src : Source) (nc : Container) :
    bitField 7 5 (fOfLe sg src nc) = 0 ∧ bitField 4 4 (fOfLe sg src nc) = src.code ∧
    bitField 3 2 (fOfLe sg src nc) = nc.code ∧ bitField 1 1 (fOfLe sg src nc) = 1 ∧
    bitField 0 0 (fOfLe sg src nc) = sg.code := by
  cases sg <;> cases src <;> cases nc <;> decide

/-- Every bit of format X's B is read back. -/
theorem bitFields_widthAndPosition (hw : width < 2 ^ 7) (hp : p < 2 ^ 6) :
    bitField 23 14 (width + 256 * p) = 0 ∧ bitField 13 8 (width + 256 * p) = p ∧
    bitField 7 7 (width + 256 * p) = 0 ∧ bitField 6 0 (width + 256 * p) = width := by
  simp only [bitField]
  omega

/-- An unsigned chunk is never refused for its S bit. -/
theorem code_eq_zero_of_unsigned (hs : mayBeSigned = false → sg = .unsigned) :
    ¬ (sg.code ≠ 0 ∧ mayBeSigned = false) := by
  rintro ⟨hc, hm⟩
  exact hc (by rw [hs hm, Signedness.code])

theorem decodeX_of_fields_be (hf : fField w = fOfBe sg src) (ha : aField w = a) (hb : bField w = width)
    (hw : width < 2 ^ 7) (hs : mayBeSigned = false → sg = .unsigned) :
    decodeX w mayBeSigned mkBe mkLe = .ok (mkBe sg src a width) := by
  obtain ⟨hr, hsrc, hnc, he, hsg⟩ := bitFields_fOfBe sg src
  obtain ⟨hb0, hp, hb1, hwidth⟩ := bitFields_widthAndPosition hw (Nat.two_pow_pos 6)
  rw [Nat.mul_zero, Nat.add_zero] at hb0 hp hb1 hwidth
  simp [decodeX, hf, ha, hb, hr, hsrc, hnc, he, hsg, hb0, hp, hb1, hwidth, code_eq_zero_of_unsigned hs]

theorem decodeX_of_fields_le (hf : fField w = fOfLe sg src nc) (ha : aField w = a) (hb : bField w = width + 256 * p)
    (hw : width < 2 ^ 7) (hp : p < 2 ^ 6) (hs : mayBeSigned = false → sg = .unsigned) :
    decodeX w mayBeSigned mkBe mkLe = .ok (mkLe sg src nc a width p) := by
  obtain ⟨hr, hsrc, hnc, he, hsg⟩ := bitFields_fOfLe sg src nc
  obtain ⟨hb0, hpos, hb1, hwidth⟩ := bitFields_widthAndPosition hw hp
  simp [decodeX, hf, ha, hb, hr, hsrc, hnc, he, hsg, hb0, hpos, hb1, hwidth, code_eq_zero_of_unsigned hs]

end FormatX

/-- The decoder reads a well-formed command back from its word (30_encoding R82 to R94): by the command's opcode, then
by its format. -/
theorem decode_encode {i : Instr} (h : i.wf = true) : decode (encode i) = .ok i := by
  have ho := opField_encode i h
  have hf := fField_encode h
  have ha := aField_encode h
  have hb := bField_encode h
  generalize encode i = w at *
  cases i
  all_goals
    simp only [decode, ho, Instr.opcode, reduceIte, Nat.reduceEqDiff]
  case nop | clrstat | crcInit | crcSbas | flInit | flUbx | raClr => exact decodeZ_of_fields _ hf ha hb
  case setlen | crcCheck | flCheck => exact decodeA_of_fields _ hf ha hb
  case fbw1 _ data | fbw2 _ data =>
    simp [decodeWr, hf, ha, hb, bitField_eq_zero_of_lt, bitField_of_lt,
      bitField_eq_zero_of_lt data.isLt]
  case fbw3 =>
    simp [decodeWr, hf, ha, hb, bitField_eq_zero_of_lt, bitField_of_lt]
  case crcFeed1 | crcFeed2 | crcFeed3 | crcFeed4 | crcFeed5 | crcFeed6 | crcFeed7 | crcFeed8 =>
    simp [decodeFeed, hf, ha, bitField, decodeFeedBits_of_field _ hb]
  case extBe =>
    obtain ⟨-, hw⟩ := of_decide_eq_true h
    exact decodeX_of_fields_be hf ha hb hw nofun
  case extLe =>
    obtain ⟨-, hw, hp⟩ := of_decide_eq_true h
    exact decodeX_of_fields_le hf ha hb hw hp nofun
  case raAppBe =>
    obtain ⟨-, hw⟩ := of_decide_eq_true h
    exact decodeX_of_fields_be hf ha hb hw fun _ => rfl
  case raAppLe =>
    obtain ⟨-, hw, hp⟩ := of_decide_eq_true h
    exact decodeX_of_fields_le hf ha hb hw hp fun _ => rfl
  case crcRun =>
    obtain ⟨hpad, -⟩ := of_decide_eq_true h
    simp [decodeCrun, hf, ha, hb, bitField_eq_zero_of_lt hpad,
      bitField_of_lt hpad]
  case flByte data =>
    simp [decodeByte, hf, ha, hb, bitField_eq_zero_of_lt data.isLt]
  case flRun => simp [decodeFrun, hf, ha, hb]
  case raAppr =>
    have hw := of_decide_eq_true h
    simp [decodeAppr, hf, ha, hb, bitField_eq_zero_of_lt hw, bitField_of_lt hw]
  case raGet sg =>
    have hs : sg.code < 2 ^ 1 := sg.code_lt
    simp [decodeGet, hf, ha, hb, bitField_eq_zero_of_lt hs, bitField_of_lt hs]

end Sys2Proof

open Sys2Proof Sys2Proof.Machine

/-- Settles O2: the four fields of the command's word are known, and each format is read back from its fields. -/
theorem decodeOfEncode : Obligations.DecodeOfEncode := fun _ => decode_encode

/-- Settles O3: what each format accepts is the word the encoder writes of it. -/
theorem encodeOfDecode : Obligations.EncodeOfDecode := fun _ _ => wf_encode_of_decode

/-- Settles O1, by evaluating the decoder on each word. -/
theorem specWordsDecode : Obligations.SpecWordsDecode := by
  unfold Obligations.SpecWordsDecode
  decide

/-- Settles O5: the oldest operation is a WriteCmd, which decodes its word and runs the command. -/
theorem stepRunsOldestCommand : Obligations.StepRunsOldestCommand := by
  refine ⟨fun s w rest i hp hd => ?_, fun s hp => step_of_port_nil hp⟩
  simp only [step, hp, serve, writeCmd, hd]

end

section
/-!
The rows of opcode_table.json against the encoder: a row accepts a word exactly when the bits it fixes hold their values,
and these are the words of its well-formed commands (30_encoding R95).
-/

namespace Sys2Proof

/-! ### A row by its fields -/

theorem bitField_and (hi lo v m : Nat) : bitField hi lo (v &&& m) = bitField hi lo v &&& bitField hi lo m := by
  rw [bitField, Nat.and_div_two_pow, Nat.and_mod_two_pow, bitField, bitField]

theorem opField_and (v w : Word) : opField (v &&& w) = opField v &&& opField w := by
  rw [opField, BitVec.toNat_and, bitField_and, opField, opField]

theorem fField_and (v w : Word) : fField (v &&& w) = fField v &&& fField w := by
  rw [fField, BitVec.toNat_and, bitField_and, fField, fField]

theorem aField_and (v w : Word) : aField (v &&& w) = aField v &&& aField w := by
  rw [aField, BitVec.toNat_and, bitField_and, aField, aField]

theorem bField_and (v w : Word) : bField (v &&& w) = bField v &&& bField w := by
  rw [bField, BitVec.toNat_and, bitField_and, bField, bField]

/-- Two words are equal when their four fields are. -/
theorem word_ext_fields {v w : Word} : v = w ↔
    opField v = opField w ∧ fField v = fField w ∧ aField v = aField w ∧ bField v = bField w := by
  refine ⟨fun h => by simp [h], fun ⟨ho, hf, ha, hb⟩ => ?_⟩
  rw [← commandWord_fields w]
  exact (commandWord_of_fields ho hf ha hb).symm

/-- The bits hi down to lo (00_scope R10). -/
def rangeMask (hi lo : Nat) : Nat := (2 ^ (hi + 1 - lo) - 1) * 2 ^ lo

/-- Masking with a range keeps the bit field in its place. -/
theorem and_rangeMask (v hi lo : Nat) : v &&& rangeMask hi lo = bitField hi lo v * 2 ^ lo := by
  have hdiv : (v &&& rangeMask hi lo) / 2 ^ lo = bitField hi lo v := by
    rw [Nat.and_div_two_pow, rangeMask, Nat.mul_div_cancel _ (Nat.two_pow_pos lo), Nat.and_two_pow_sub_one_eq_mod,
      bitField]
  have hmod : (v &&& rangeMask hi lo) % 2 ^ lo = 0 := by
    rw [Nat.and_mod_two_pow, rangeMask, Nat.mul_mod_left, Nat.and_zero]
  rw [← hdiv, Nat.div_mul_cancel (Nat.dvd_of_mod_eq_zero hmod)]

/-- A range masks away every number below it. -/
theorem and_rangeMask_eq_zero_of_lt {v hi lo : Nat} (h : v < 2 ^ lo) : v &&& rangeMask hi lo = 0 := by
  rw [and_rangeMask, bitField_eq_zero_of_lt h, Nat.zero_mul]

/-- A number that a range up to its width masks away is below the range. -/
theorem lt_of_and_rangeMask_eq_zero {v hi lo : Nat} (hv : v < 2 ^ (hi + 1)) (h : v &&& rangeMask hi lo = 0) :
    v < 2 ^ lo := by
  have hdiv : v / 2 ^ lo < 2 ^ (hi + 1 - lo) := by
    apply Nat.div_lt_of_lt_mul
    rw [← Nat.pow_add]
    exact hv.trans_le (Nat.pow_le_pow_right (by decide) (by omega))
  rw [and_rangeMask, bitField, Nat.mod_eq_of_lt hdiv] at h
  have hzero : v / 2 ^ lo = 0 := (Nat.mul_eq_zero.1 h).resolve_right (Nat.two_pow_pos lo).ne'
  exact (Nat.div_eq_zero_iff_lt (Nat.two_pow_pos lo)).1 hzero

/-- The range of all its bits keeps a number. -/
theorem and_rangeMask_of_lt {v hi : Nat} (h : v < 2 ^ (hi + 1)) : v &&& rangeMask hi 0 = v := by
  rw [and_rangeMask, bitField_of_lt h, Nat.pow_zero, Nat.mul_one]

/-- Two ranges, one above the other, keep their two bit fields. -/
theorem and_or_rangeMask (v : Nat) {hi lo hi' lo' : Nat} (hlo : lo' ≤ hi') (habove : hi' < lo) :
    v &&& (rangeMask hi lo ||| rangeMask hi' lo') = bitField hi lo v * 2 ^ lo + bitField hi' lo' v * 2 ^ lo' := by
  have hlow : bitField hi' lo' v * 2 ^ lo' < 2 ^ lo := calc
    _ < 2 ^ (hi' + 1 - lo') * 2 ^ lo' :=
      Nat.mul_lt_mul_of_pos_right (Nat.mod_lt _ (Nat.two_pow_pos _)) (Nat.two_pow_pos _)
    _ = 2 ^ (hi' + 1) := by rw [← Nat.pow_add, Nat.sub_add_cancel (by omega)]
    _ ≤ 2 ^ lo := Nat.pow_le_pow_right (by decide) habove
  rw [Nat.and_or_distrib_left, and_rangeMask, and_rangeMask, Nat.mul_comm _ (2 ^ lo), Nat.two_pow_add_eq_or_of_lt hlow]

/-- The bits below OP that a form of command fixes: in F the value f of the masked bits, in A and B zeros. -/
structure FixedBits where
  f : Nat
  fMask : Nat
  aMask : Nat
  bMask : Nat

/-- The fields F, A and B of a word hold the fixed bits. -/
def FixedBits.holds (x : FixedBits) (f a b : Nat) : Prop :=
  f &&& x.fMask = x.f ∧ a &&& x.aMask = 0 ∧ b &&& x.bMask = 0

/-- The fixed bits of each command's form, from its format (30_encoding R83 to R92): the reserved bits, and the bits of F
that select the form. -/
def Instr.fixed : Instr → FixedBits
  | .fbw1 _ _ => ⟨1, rangeMask 7 0, 0, rangeMask 23 8⟩
  | .fbw2 _ _ => ⟨2, rangeMask 7 0, 0, rangeMask 23 16⟩
  | .fbw3 _ _ => ⟨3, rangeMask 7 0, 0, 0⟩
  | .setlen _ => ⟨0, rangeMask 7 0, 0, rangeMask 23 0⟩
  | .extBe _ _ _ _ => ⟨0, rangeMask 7 5 ||| rangeMask 3 1, 0, rangeMask 23 7⟩
  | .extLe _ _ _ _ _ _ => ⟨2, rangeMask 7 5 ||| rangeMask 1 1, 0, rangeMask 23 14 ||| rangeMask 7 7⟩
  | .crcFeed1 _ => ⟨1, rangeMask 7 0, rangeMask 23 0, rangeMask 23 1⟩
  | .crcFeed2 _ => ⟨2, rangeMask 7 0, rangeMask 23 0, rangeMask 23 2⟩
  | .crcFeed3 _ => ⟨3, rangeMask 7 0, rangeMask 23 0, rangeMask 23 3⟩
  | .crcFeed4 _ => ⟨4, rangeMask 7 0, rangeMask 23 0, rangeMask 23 4⟩
  | .crcFeed5 _ => ⟨5, rangeMask 7 0, rangeMask 23 0, rangeMask 23 5⟩
  | .crcFeed6 _ => ⟨6, rangeMask 7 0, rangeMask 23 0, rangeMask 23 6⟩
  | .crcFeed7 _ => ⟨7, rangeMask 7 0, rangeMask 23 0, rangeMask 23 7⟩
  | .crcFeed8 _ => ⟨8, rangeMask 7 0, rangeMask 23 0, rangeMask 23 8⟩
  | .crcRun _ _ _ => ⟨0, rangeMask 7 3, 0, 0⟩
  | .crcCheck _ => ⟨0, rangeMask 7 0, 0, rangeMask 23 0⟩
  | .flByte _ => ⟨0, rangeMask 7 0, rangeMask 23 0, rangeMask 23 8⟩
  | .flRun _ _ => ⟨0, rangeMask 7 0, 0, 0⟩
  | .flCheck _ => ⟨0, rangeMask 7 0, 0, rangeMask 23 0⟩
  | .raAppBe _ _ _ => ⟨0, rangeMask 7 5 ||| rangeMask 3 0, 0, rangeMask 23 7⟩
  | .raAppLe _ _ _ _ _ => ⟨2, rangeMask 7 5 ||| rangeMask 1 0, 0, rangeMask 23 14 ||| rangeMask 7 7⟩
  | .raAppr _ => ⟨0, rangeMask 7 0, rangeMask 23 0, rangeMask 23 7⟩
  | .raGet _ => ⟨0, rangeMask 7 1, rangeMask 23 0, rangeMask 23 0⟩
  | _ => ⟨0, rangeMask 7 0, rangeMask 23 0, rangeMask 23 0⟩

theorem Instr.fixed_lt (i : Instr) :
    i.fixed.f < 2 ^ 8 ∧ i.fixed.fMask < 2 ^ 8 ∧ i.fixed.aMask < 2 ^ 24 ∧ i.fixed.bMask < 2 ^ 24 := by
  cases i <;> simp only [fixed] <;> decide

/-- The table's row of a command, written by its fields. -/
def Instr.row (i : Instr) : TableRow where
  mnemonic := i.mnemonic
  pattern := commandWord i.opcode i.fixed.f 0 0
  mask := commandWord 0xFF i.fixed.fMask i.fixed.aMask i.fixed.bMask

/-- Any command of each form. -/
def commandForms : List Instr := [
  .nop, .fbw1 0 0, .fbw2 0 0, .fbw3 0 0, .setlen 0, .clrstat,
  .extBe .unsigned .fb 0 0, .extLe .unsigned .fb .b1 0 0 0,
  .crcInit, .crcFeed1 0, .crcFeed2 0, .crcFeed3 0, .crcFeed4 0, .crcFeed5 0, .crcFeed6 0, .crcFeed7 0, .crcFeed8 0,
  .crcRun 0 0 0, .crcCheck 0, .crcSbas,
  .flInit, .flByte 0, .flRun 0 0, .flCheck 0, .flUbx,
  .raClr, .raAppBe .fb 0 0, .raAppLe .fb .b1 0 0 0, .raAppr 0, .raGet .unsigned]

/-- The mask and match rows are the rows of the formats, one for each form. -/
theorem opcodeTable_eq_rows : opcodeTable = commandForms.map Instr.row := by decide

/-- No operand enters a row, so the row of any command stands in the table. -/
theorem row_mem_opcodeTable (i : Instr) : i.row ∈ opcodeTable := by
  cases i <;> simp only [Instr.row, Instr.mnemonic, Instr.opcode, Instr.fixed] <;> decide

/-- A row accepts a word exactly when OP is its opcode and the other fields hold its fixed bits. -/
theorem row_accepts_iff (i : Instr) (w : Word) :
    i.row.accepts w = true ↔ opField w = i.opcode ∧ i.fixed.holds (fField w) (aField w) (bField w) := by
  obtain ⟨hf, hfm, ham, hbm⟩ := i.fixed_lt
  have ho := i.opcode_lt
  have hop : opField w &&& 0xFF = opField w := Nat.and_two_pow_sub_one_of_lt_two_pow (n := 8) (opField_lt w)
  have zero_lt : 0 < 2 ^ 24 := by decide
  have full_lt : 0xFF < 2 ^ 8 := by decide
  rw [TableRow.accepts, beq_iff_eq, word_ext_fields, opField_and, fField_and, aField_and, bField_and]
  simp only [Instr.row]
  rw [opField_commandWord _ _ _ _ full_lt hfm ham hbm, fField_commandWord _ _ _ _ full_lt hfm ham hbm,
    aField_commandWord _ _ _ _ full_lt hfm ham hbm, bField_commandWord _ _ _ _ full_lt hfm ham hbm,
    opField_commandWord _ _ _ _ ho hf zero_lt zero_lt, fField_commandWord _ _ _ _ ho hf zero_lt zero_lt,
    aField_commandWord _ _ _ _ ho hf zero_lt zero_lt, bField_commandWord _ _ _ _ ho hf zero_lt zero_lt, hop,
    FixedBits.holds]

/-! ### Both directions, form by form -/

/-- Format X's two forms keep the bits of F their rows fix, RA_APP's with S = 0. -/
theorem fOfBe_and_fixed (sg : Signedness) (src : Source) : fOfBe sg src &&& (rangeMask 7 5 ||| rangeMask 3 1) = 0 := by
  cases sg <;> cases src <;> decide

theorem fOfLe_and_fixed (sg : Signedness) (src : Source) (nc : Container) :
    fOfLe sg src nc &&& (rangeMask 7 5 ||| rangeMask 1 1) = 2 := by
  cases sg <;> cases src <;> cases nc <;> decide

theorem fOfBe_unsigned_and_fixed (src : Source) :
    fOfBe .unsigned src &&& (rangeMask 7 5 ||| rangeMask 3 0) = 0 := by
  cases src <;> decide

theorem fOfLe_unsigned_and_fixed (src : Source) (nc : Container) :
    fOfLe .unsigned src nc &&& (rangeMask 7 5 ||| rangeMask 1 0) = 2 := by
  cases src <;> cases nc <;> decide

theorem widthAndPosition_and_fixed {width p : Nat} (hw : width < 2 ^ 7) (hp : p < 2 ^ 6) :
    (width + 256 * p) &&& (rangeMask 23 14 ||| rangeMask 7 7) = 0 := by
  obtain ⟨htop, -, hgap, -⟩ := bitFields_widthAndPosition hw hp
  rw [and_or_rangeMask _ (by decide) (by decide), htop, hgap, Nat.zero_mul, Nat.zero_mul]

/-- What the encoder writes holds the fixed bits of the command's form. -/
theorem fixed_holds_encoded {i : Instr} (h : i.wf = true) : i.fixed.holds i.fBits i.aBits i.bBits := by
  have hf : i.fBits &&& rangeMask 7 0 = i.fBits := and_rangeMask_of_lt (Instr.fBits_lt h)
  cases i with
  | fbw1 _ data | fbw2 _ data => exact ⟨hf, Nat.and_zero _, and_rangeMask_eq_zero_of_lt data.isLt⟩
  | fbw3 | flRun => exact ⟨hf, Nat.and_zero _, Nat.and_zero _⟩
  | setlen | crcCheck | flCheck => exact ⟨hf, Nat.and_zero _, Nat.zero_and _⟩
  | extBe sg src =>
    obtain ⟨-, hw⟩ := of_decide_eq_true h
    exact ⟨fOfBe_and_fixed sg src, Nat.and_zero _, and_rangeMask_eq_zero_of_lt hw⟩
  | extLe sg src nc =>
    obtain ⟨-, hw, hp⟩ := of_decide_eq_true h
    exact ⟨fOfLe_and_fixed sg src nc, Nat.and_zero _, widthAndPosition_and_fixed hw hp⟩
  | crcFeed1 data | crcFeed2 data | crcFeed3 data | crcFeed4 data | crcFeed5 data | crcFeed6 data | crcFeed7 data
  | crcFeed8 data | flByte data => exact ⟨hf, Nat.zero_and _, and_rangeMask_eq_zero_of_lt data.isLt⟩
  | crcRun =>
    obtain ⟨hpad, -⟩ := of_decide_eq_true h
    exact ⟨and_rangeMask_eq_zero_of_lt hpad, Nat.and_zero _, Nat.and_zero _⟩
  | raAppBe src =>
    obtain ⟨-, hw⟩ := of_decide_eq_true h
    exact ⟨fOfBe_unsigned_and_fixed src, Nat.and_zero _, and_rangeMask_eq_zero_of_lt hw⟩
  | raAppLe src nc =>
    obtain ⟨-, hw, hp⟩ := of_decide_eq_true h
    exact ⟨fOfLe_unsigned_and_fixed src nc, Nat.and_zero _, widthAndPosition_and_fixed hw hp⟩
  | raAppr => exact ⟨hf, Nat.zero_and _, and_rangeMask_eq_zero_of_lt (of_decide_eq_true h)⟩
  | raGet sg => exact ⟨and_rangeMask_eq_zero_of_lt sg.code_lt, Nat.zero_and _, Nat.zero_and _⟩
  | nop | clrstat | crcInit | crcSbas | flInit | flUbx | raClr => exact ⟨hf, Nat.zero_and _, Nat.zero_and _⟩

theorem row_accepts_encode {i : Instr} (h : i.wf = true) : i.row.accepts (encode i) = true := by
  rw [row_accepts_iff, fField_encode h, aField_encode h, bField_encode h]
  exact ⟨opField_encode i h, fixed_holds_encoded h⟩

/-! The operands of format X's two forms, read from a field F that holds their fixed bits. -/

theorem fOfBe_ofCode {f : Nat} (hlt : f < 2 ^ 8) (h : f &&& (rangeMask 7 5 ||| rangeMask 3 1) = 0) :
    fOfBe (.ofCode (f / 2 ^ 0 % 2 ^ 1)) (.ofCode (f / 2 ^ 4 % 2 ^ 1)) = f := by
  rw [and_or_rangeMask _ (by decide) (by decide)] at h
  rw [fOfBe, Signedness.code_ofCode (by omega), Source.code_ofCode (by omega)]
  simp only [bitField] at *
  omega

theorem fOfLe_ofCode {f : Nat} (hlt : f < 2 ^ 8) (h : f &&& (rangeMask 7 5 ||| rangeMask 1 1) = 2) :
    fOfLe (.ofCode (f / 2 ^ 0 % 2 ^ 1)) (.ofCode (f / 2 ^ 4 % 2 ^ 1)) (.ofCode (f / 2 ^ 2 % 2 ^ 2)) = f := by
  rw [and_or_rangeMask _ (by decide) (by decide)] at h
  rw [fOfLe, Signedness.code_ofCode (by omega), Source.code_ofCode (by omega), Container.code_ofCode (by omega)]
  simp only [bitField] at *
  omega

theorem fOfBe_unsigned_ofCode {f : Nat} (hlt : f < 2 ^ 8) (h : f &&& (rangeMask 7 5 ||| rangeMask 3 0) = 0) :
    fOfBe .unsigned (.ofCode (f / 2 ^ 4 % 2 ^ 1)) = f := by
  rw [and_or_rangeMask _ (by decide) (by decide)] at h
  rw [fOfBe, Signedness.code, Source.code_ofCode (by omega)]
  simp only [bitField] at *
  omega

theorem fOfLe_unsigned_ofCode {f : Nat} (hlt : f < 2 ^ 8) (h : f &&& (rangeMask 7 5 ||| rangeMask 1 0) = 2) :
    fOfLe .unsigned (.ofCode (f / 2 ^ 4 % 2 ^ 1)) (.ofCode (f / 2 ^ 2 % 2 ^ 2)) = f := by
  rw [and_or_rangeMask _ (by decide) (by decide)] at h
  rw [fOfLe, Signedness.code, Source.code_ofCode (by omega), Container.code_ofCode (by omega)]
  simp only [bitField] at *
  omega

/-- A field B that holds the little-endian form's fixed bits is a width and a position. -/
theorem exists_widthAndPosition {b : Nat} (hlt : b < 2 ^ 24) (h : b &&& (rangeMask 23 14 ||| rangeMask 7 7) = 0) :
    ∃ width p, width < 2 ^ 7 ∧ p < 2 ^ 6 ∧ b = width + 256 * p := by
  rw [and_or_rangeMask _ (by decide) (by decide)] at h
  simp only [bitField] at h
  exact ⟨b % 2 ^ 7, b / 2 ^ 8, by omega, by omega, by omega⟩

/-- A form without operands has one word, its opcode's with F, A and B 0. -/
theorem exists_encode_of_no_operands {j : Instr} {w : Word} (hwf : j.wf = true)
    (he : encode j = commandWord j.opcode 0 0 0) (ho : opField w = j.opcode) (hf : fField w = 0) (ha : aField w = 0)
    (hb : bField w = 0) : ∃ i : Instr, i.wf = true ∧ encode i = w ∧ i.mnemonic = j.mnemonic :=
  ⟨j, hwf, he.trans (commandWord_of_fields ho hf ha hb), rfl⟩

/-- Every word a row accepts is the word of a well-formed command of its form. -/
theorem exists_encode_of_row_accepts {j : Instr} {w : Word} (h : j.row.accepts w = true) :
    ∃ i : Instr, i.wf = true ∧ encode i = w ∧ i.mnemonic = j.mnemonic := by
  obtain ⟨ho, hf, ha, hb⟩ := (row_accepts_iff j w).1 h
  have fLt := fField_lt w
  have aLt := aField_lt w
  have bLt := bField_lt w
  have fFull : fField w &&& rangeMask 7 0 = fField w := and_rangeMask_of_lt fLt
  have aFull : aField w &&& rangeMask 23 0 = aField w := and_rangeMask_of_lt aLt
  have bFull : bField w &&& rangeMask 23 0 = bField w := and_rangeMask_of_lt bLt
  have data : ∀ {k}, bField w &&& rangeMask 23 k = 0 → (BitVec.ofNat k (bField w)).toNat = bField w :=
    fun h => toNat_ofNat_bField (lt_of_and_rangeMask_eq_zero bLt h)
  cases j
  all_goals
    simp only [Instr.fixed, fFull, aFull, bFull] at hf ha hb
  case nop | clrstat | crcInit | crcSbas | flInit | flUbx | raClr =>
    exact exists_encode_of_no_operands rfl rfl ho hf ha hb
  case fbw1 => exact ⟨.fbw1 _ _, decide_eq_true aLt, commandWord_of_fields ho hf rfl (data hb).symm, rfl⟩
  case fbw2 => exact ⟨.fbw2 _ _, decide_eq_true aLt, commandWord_of_fields ho hf rfl (data hb).symm, rfl⟩
  case fbw3 =>
    exact ⟨.fbw3 _ _, decide_eq_true aLt, commandWord_of_fields ho hf rfl (toNat_ofNat_bField bLt).symm, rfl⟩
  case setlen => exact ⟨.setlen _, decide_eq_true aLt, commandWord_of_fields ho hf rfl hb, rfl⟩
  case crcCheck => exact ⟨.crcCheck _, decide_eq_true aLt, commandWord_of_fields ho hf rfl hb, rfl⟩
  case flCheck => exact ⟨.flCheck _, decide_eq_true aLt, commandWord_of_fields ho hf rfl hb, rfl⟩
  case crcFeed1 => exact ⟨.crcFeed1 _, rfl, commandWord_of_fields ho hf ha (data hb).symm, rfl⟩
  case crcFeed2 => exact ⟨.crcFeed2 _, rfl, commandWord_of_fields ho hf ha (data hb).symm, rfl⟩
  case crcFeed3 => exact ⟨.crcFeed3 _, rfl, commandWord_of_fields ho hf ha (data hb).symm, rfl⟩
  case crcFeed4 => exact ⟨.crcFeed4 _, rfl, commandWord_of_fields ho hf ha (data hb).symm, rfl⟩
  case crcFeed5 => exact ⟨.crcFeed5 _, rfl, commandWord_of_fields ho hf ha (data hb).symm, rfl⟩
  case crcFeed6 => exact ⟨.crcFeed6 _, rfl, commandWord_of_fields ho hf ha (data hb).symm, rfl⟩
  case crcFeed7 => exact ⟨.crcFeed7 _, rfl, commandWord_of_fields ho hf ha (data hb).symm, rfl⟩
  case crcFeed8 => exact ⟨.crcFeed8 _, rfl, commandWord_of_fields ho hf ha (data hb).symm, rfl⟩
  case flByte => exact ⟨.flByte _, rfl, commandWord_of_fields ho hf ha (data hb).symm, rfl⟩
  case crcRun =>
    have hpad := lt_of_and_rangeMask_eq_zero fLt hf
    exact ⟨.crcRun _ _ _, decide_eq_true ⟨hpad, aLt, bLt⟩, commandWord_of_fields ho rfl rfl rfl, rfl⟩
  case flRun => exact ⟨.flRun _ _, decide_eq_true ⟨aLt, bLt⟩, commandWord_of_fields ho hf rfl rfl, rfl⟩
  case extBe =>
    have hw := lt_of_and_rangeMask_eq_zero bLt hb
    exact ⟨.extBe _ _ _ _, decide_eq_true ⟨aLt, hw⟩,
      commandWord_of_fields ho (fOfBe_ofCode fLt hf).symm rfl rfl, rfl⟩
  case extLe =>
    obtain ⟨width, p, hw, hp, hb⟩ := exists_widthAndPosition bLt hb
    exact ⟨.extLe _ _ _ _ width p, decide_eq_true ⟨aLt, hw, hp⟩,
      commandWord_of_fields ho (fOfLe_ofCode fLt hf).symm rfl hb, rfl⟩
  case raAppBe =>
    have hw := lt_of_and_rangeMask_eq_zero bLt hb
    exact ⟨.raAppBe _ _ _, decide_eq_true ⟨aLt, hw⟩,
      commandWord_of_fields ho (fOfBe_unsigned_ofCode fLt hf).symm rfl rfl, rfl⟩
  case raAppLe =>
    obtain ⟨width, p, hw, hp, hb⟩ := exists_widthAndPosition bLt hb
    exact ⟨.raAppLe _ _ _ width p, decide_eq_true ⟨aLt, hw, hp⟩,
      commandWord_of_fields ho (fOfLe_unsigned_ofCode fLt hf).symm rfl hb, rfl⟩
  case raAppr =>
    have hw := lt_of_and_rangeMask_eq_zero bLt hb
    exact ⟨.raAppr _, decide_eq_true hw, commandWord_of_fields ho hf ha rfl, rfl⟩
  case raGet =>
    have hs : fField w < 2 := lt_of_and_rangeMask_eq_zero fLt hf
    exact ⟨.raGet _, rfl, commandWord_of_fields ho (Signedness.code_ofCode hs).symm ha hb, rfl⟩

/-! ### The table against the decoder -/

/-- A word that belongs to a row of the table is read as a command of that row. -/
theorem exists_decode_of_accepts {r : TableRow} {w : Word} (hr : r ∈ opcodeTable) (ha : r.accepts w = true) :
    ∃ i, decode w = .ok i ∧ i.mnemonic = r.mnemonic := by
  rw [opcodeTable_eq_rows] at hr
  obtain ⟨j, -, rfl⟩ := List.mem_map.1 hr
  obtain ⟨i, hwf, rfl, hm⟩ := exists_encode_of_row_accepts ha
  exact ⟨i, decode_encode hwf, hm⟩

/-- No two rows of the table have the same mnemonic. -/
theorem opcodeTable_mnemonics_nodup : (opcodeTable.map TableRow.mnemonic).Nodup := by decide

/-- A word read as a command belongs to that command's row and to no other. -/
theorem filter_accepts_of_decode {w : Word} {i : Instr} (h : decode w = .ok i) :
    opcodeTable.filter (fun r => r.accepts w) = [i.row] := by
  obtain ⟨hwf, he⟩ := wf_encode_of_decode h
  have hnodup := opcodeTable_mnemonics_nodup
  apply List.Perm.eq_singleton
  rw [List.perm_ext_iff_of_nodup (hnodup.of_map.filter _) (List.nodup_singleton _)]
  intro r
  rw [List.mem_filter, List.mem_singleton]
  constructor
  · rintro ⟨hr, ha⟩
    obtain ⟨i', hi', hm⟩ := exists_decode_of_accepts hr ha
    obtain rfl : i = i' := Except.ok.inj (h.symm.trans hi')
    exact List.inj_on_of_nodup_map hnodup hr (row_mem_opcodeTable i) hm.symm
  · rintro rfl
    rw [← he]
    exact ⟨row_mem_opcodeTable i, row_accepts_encode hwf⟩

end Sys2Proof

open Sys2Proof Sys2Proof.Machine

/-- Settles O4: a row accepts the words of its well-formed commands, which the decoder reads back. -/
theorem decoderAgreesWithOpcodeTable : Obligations.DecoderAgreesWithOpcodeTable := by
  refine ⟨fun w i h => ⟨i.row, filter_accepts_of_decode h, rfl⟩, fun w e h => ?_⟩
  rw [List.filter_eq_nil_iff]
  intro r hr ha
  obtain ⟨i, hi, -⟩ := exists_decode_of_accepts hr ha
  cases h.symm.trans hi

end

section
/-!
The frame-buffer and control commands (40_control): what each completes with, what FBW and SETLEN refuse, and that a
sticky bit, once set, stands until CLRSTAT.
-/

namespace Sys2Proof.Machine

/-! ### A command that completes -/

/-- A command whose rule is done completes, having written the flags and parts its rule wrote. -/
theorem exec_completes {i : Instr} {s t : State} {fs : List Flag} {ps : List Part} (h : ruleOf i s.count = .done t)
    (hf : flagsOnly fs s t) (hp : changesOnly ps s t) :
    exec i s = .next (conclude (encode i) (.done t)) ∧ succeeds fs s (conclude (encode i) (.done t)) ∧
      changesOnly ps s (conclude (encode i) (.done t)) := by
  have hb := rule_books i s.count
  rw [h] at hb
  refine ⟨?_, succeeds_conclude _ fs s t hb hf, (changesOnly_conclude ps s _ _).2 hp⟩
  rw [exec_eq, h]

/-! ### FBW and SETLEN -/

theorem fbwRule_of_fits {addr : Nat} {bytes : List Byte} (h : addr + bytes.length ≤ Config.fbBytes) (s : State) :
    fbwRule addr bytes s = .done (s.setFb (s.fb.writeBytes addr bytes)) :=
  if_neg (Nat.not_lt.2 h)

theorem fbwRule_of_past_end {addr : Nat} {bytes : List Byte} (h : Config.fbBytes < addr + bytes.length) (s : State) :
    fbwRule addr bytes s = .raise .illegalCommand s :=
  if_pos h

theorem setlenRule_of_fits {len : Nat} (h : len ≤ Config.fbBytes) (s : State) :
    setlenRule len s = .done (s.setFlen (BitVec.ofNat 24 len)) :=
  if_neg (Nat.not_lt.2 h)

theorem setlenRule_of_too_long {len : Nat} (h : Config.fbBytes < len) (s : State) :
    setlenRule len s = .raise .illegalCommand s :=
  if_pos h

/-- FLEN can hold every length that SETLEN accepts. -/
theorem toNat_frameLength {len : Nat} (h : len ≤ Config.fbBytes) : (BitVec.ofNat 24 len).toNat = len := by
  rw [BitVec.toNat_ofNat]
  exact Nat.mod_eq_of_lt (Nat.lt_of_le_of_lt h (by decide))

/-- Eight neighbouring bits of a command's data are a byte. -/
theorem ofNat_bitField_eq_extractLsb' {n : Nat} (d : BitVec n) (lo : Nat) :
    BitVec.ofNat 8 (bitField (lo + 7) lo d.toNat) = d.extractLsb' lo 8 := by
  apply BitVec.eq_of_toNat_eq
  rw [BitVec.toNat_ofNat, BitVec.extractLsb'_toNat, Nat.shiftRight_eq_div_pow, bitField,
    show lo + 7 + 1 - lo = 8 by omega, Nat.mod_mod]

/-- The bytes of a command's data, from its most significant byte down (40_control R111). -/
theorem bytesOf_toNat {n : Nat} (k : Nat) (d : BitVec n) :
    bytesOf k d.toNat = (List.range k).map fun i => d.extractLsb' (8 * (k - i - 1)) 8 := by
  refine List.map_congr_left fun i hi => ?_
  rw [List.mem_range] at hi
  rw [show 8 * (k - i) - 1 = 8 * (k - i - 1) + 7 by omega, ofNat_bitField_eq_extractLsb']

/-- Whatever form of FBW the command is, its effect is that of its bytes. -/
theorem fbwEffect_of_rule (i : Instr) {addr : Nat} {bytes : List Byte} (h : ruleOf i = fbwRule addr bytes)
    (s : State) : fbwEffect i addr bytes s := by
  refine ⟨fun hfit => ?_, fun hpast => ?_⟩
  · have hrule : ruleOf i s.count = .done (s.count.setFb (s.fb.writeBytes addr bytes)) := by
      rw [h]
      exact fbwRule_of_fits hfit s.count
    obtain ⟨hexec, hsucceeds, hparts⟩ := exec_completes hrule (flagsOnly_of_status_eq [] rfl)
      ((changesOnly_count _ s _).1 (changesOnly_setFb s.count _))
    have hread := Memory.read_writeBytes bytes s.fb addr
    refine ⟨_, hexec, fun k hk => (hread (addr + k)).trans ?_, fun a ha => (hread a).trans (if_neg (by omega)),
      hsucceeds, hparts⟩
    rw [if_pos (by omega), Nat.add_sub_cancel_left]
  · refine exec_refused .illegalCommand i s ?_
    rw [h]
    exact fbwRule_of_past_end hpast s.count

/-! ### The sticky bits -/

/-- STATUS[7:4], which errors and mismatches set and CLRSTAT clears (10_state R22). -/
def stickyFlags : List Flag := [.truncS, .invS, .illS, .mismatchS]

theorem stickyFlags_bit_range : ∀ f ∈ stickyFlags, 4 ≤ f.bit ∧ f.bit ≤ 7 := by decide

theorem Err.sticky_mem_stickyFlags (e : Err) : e.sticky ∈ stickyFlags := by cases e <;> decide

theorem noErrorRecorded_iff (s : State) : noErrorRecorded s ↔ ∀ f ∈ stickyFlags, s.status.flag f = false := by
  simp [noErrorRecorded, stickyFlags]

theorem Status.flag_clearSticky (st : Status) {f : Flag} (hf : f ∈ stickyFlags) : st.clearSticky.flag f = false := by
  rw [Status.flag, Status.getLsbD_clearSticky, if_pos (stickyFlags_bit_range f hf)]

/-- A comparison that agrees leaves a recorded mismatch, and one that does not records it again. -/
theorem Status.flag_noteMismatch {st : Status} (ok : Bool) (h : st.flag .mismatchS = true) :
    (st.noteMismatch ok).flag .mismatchS = true := by
  cases ok with
  | true => exact h
  | false => exact st.flag_setFlag_same .mismatchS true

/-- Every sticky bit set in s is set in t. -/
def KeepsSticky (s t : State) : Prop := ∀ f ∈ stickyFlags, s.status.flag f = true → t.status.flag f = true

theorem KeepsSticky.trans {s t u : State} (h : KeepsSticky s t) (k : KeepsSticky t u) : KeepsSticky s u :=
  fun f hf hs => k f hf (h f hf hs)

/-- Only the sticky bits among the flags written are in question. -/
theorem KeepsSticky.of_flagsOnly {fs : List Flag} {s t : State} (h : flagsOnly fs s t)
    (hfs : ∀ f ∈ fs, f ∈ stickyFlags → s.status.flag f = true → t.status.flag f = true) : KeepsSticky s t := by
  intro f hf hs
  by_cases hmem : f ∈ fs
  · exact hfs f hmem hf hs
  · rwa [flag_of_flagsOnly h hmem]

/-- Of the flags a comparison writes, MISMATCH_S alone is sticky. -/
theorem KeepsSticky.of_comparison {done ok : Flag} {s t : State} (h : flagsOnly [done, ok, .mismatchS] s t)
    (hdone : done ∉ stickyFlags) (hok : ok ∉ stickyFlags)
    (hm : s.status.flag .mismatchS = true → t.status.flag .mismatchS = true) : KeepsSticky s t := by
  refine .of_flagsOnly h fun f hf hsticky => ?_
  simp only [List.mem_cons, List.not_mem_nil, or_false] at hf
  rcases hf with rfl | rfl | rfl
  · exact absurd hsticky hdone
  · exact absurd hsticky hok
  · exact hm

/-- Flags that are not sticky may be written freely. -/
theorem KeepsSticky.of_disjoint {fs : List Flag} {s t : State} (h : flagsOnly fs s t)
    (hfs : ∀ f ∈ fs, f ∉ stickyFlags) : KeepsSticky s t :=
  .of_flagsOnly h fun f hf hsticky => absurd hsticky (hfs f hf)

/-- A write lowers no sticky bit, unless it is CLRSTAT's. -/
theorem RuleWrite.keepsSticky {op : Nat} {s t : State} (hop : op ≠ 0x03) (h : RuleWrite op s t) : KeepsSticky s t := by
  cases h with
  | frameBytes | frameLength | raClear | raAppend => exact .of_disjoint (flagsOnly_of_status_eq [] rfl) (by simp)
  | clearSticky h => exact absurd h hop
  | crcClear | crcFeed => exact .of_disjoint (flagsOnly_restartCrc _ s) (by decide)
  | crcCompare rx =>
    refine .of_comparison (flagsOnly_compareCrc rx s) (by decide) (by decide) fun hs => ?_
    refine Status.flag_noteMismatch _ ?_
    simpa [Status.setCrcCheck, Status.flag_setFlag] using hs
  | flRestart c => exact .of_disjoint (flagsOnly_restartFl c s) (by decide)
  | flCompare rx a b =>
    refine .of_comparison (flagsOnly_setFlRx_flOutcome rx a b s) (by decide) (by decide) fun hs => ?_
    refine Status.flag_noteMismatch _ ?_
    simpa [Status.setFlCheck, Status.flag_setFlag] using hs
  | result sg n raw => exact .of_disjoint (flagsOnly_writeResult sg n raw s) (by decide)

theorem RuleWrites.keepsSticky {op : Nat} {s t : State} (hop : op ≠ 0x03) (h : RuleWrites op s t) :
    KeepsSticky s t := by
  induction h with
  | refl => exact fun _ _ => id
  | tail _ hlast ih => exact ih.trans (hlast.keepsSticky hop)

theorem eq_of_mem_errorFlags {e : Err} {w : Word} {f : Flag} (h : f ∈ errorFlags e w) :
    f = e.sticky ∨ f = .resValid := by
  unfold errorFlags at h
  split at h
  · simpa using h
  · exact .inl (by simpa using h)

/-- The end of the protocol sets the sticky bit of an error, and writes no other. -/
theorem conclude_keepsSticky (w : Word) (r : RuleEnd) : KeepsSticky r.kept (conclude w r) := by
  cases r with
  | done s => exact .of_disjoint (flagsOnly_conclude_done w s) (by simp)
  | raise e s =>
    refine .of_flagsOnly (flagsOnly_conclude_raise w e s) fun f hf hsticky _ => ?_
    rcases eq_of_mem_errorFlags hf with rfl | rfl
    · exact s.status.flag_noteError_sticky e w
    · exact absurd hsticky (by decide)

theorem Instr.opcode_ne_clrstat {i : Instr} (h : i ≠ .clrstat) : i.opcode ≠ 0x03 := by
  cases i with
  | clrstat => exact absurd rfl h
  | _ => simp [Instr.opcode]

/-- No command but CLRSTAT lowers a sticky bit (40_control R113). -/
theorem exec_keepsSticky {i : Instr} {s t : State} (hi : i ≠ .clrstat) (h : exec i s = .next t) :
    KeepsSticky s t := by
  rw [exec_eq] at h
  cases h
  have hrule := (rule_writes i s.count).keepsSticky (Instr.opcode_ne_clrstat hi)
  exact KeepsSticky.trans (s := s) hrule (conclude_keepsSticky _ _)

/-- A command that leaves no sticky bit set has raised no error, since an error sets its own (60_exceptions R224). -/
theorem exec_err_of_noErrorRecorded {i : Instr} {s t : State} (h : exec i s = .next t) (ht : noErrorRecorded t) :
    t.status.err = 0 := by
  rw [exec_eq] at h
  cases h
  rw [noErrorRecorded_iff] at ht
  cases hr : ruleOf i s.count with
  | done u => exact u.status.err_setErr 0
  | raise e u =>
    rw [hr] at ht
    have hset := u.status.flag_noteError_sticky e (encode i)
    exact absurd hset (Bool.eq_false_iff.1 (ht e.sticky e.sticky_mem_stickyFlags))

end Sys2Proof.Machine

open Sys2Proof Sys2Proof.Machine

/-- Settles O16: a bit that is clear afterwards was clear before, because a command but CLRSTAT would have kept it. -/
theorem onlyClrstatLowersStickyBits : Obligations.OnlyClrstatLowersStickyBits := by
  intro i s t hi h
  have hkeep := exec_keepsSticky hi h
  refine ⟨hkeep, fun ht => ⟨(noErrorRecorded_iff s).2 fun f hf => ?_, exec_err_of_noErrorRecorded h ht⟩⟩
  have hclear := (noErrorRecorded_iff t).1 ht f hf
  exact Bool.eq_false_iff.2 fun hs => Bool.eq_false_iff.1 hclear (hkeep f hf hs)

/-- Settles O21: NOP's rule is done in the state it was given. -/
theorem nopRunsProtocolOnly : Obligations.NopRunsProtocolOnly := by
  intro s
  have hrule : ruleOf .nop s.count = .done s.count := rfl
  exact ⟨_, exec_completes hrule (flagsOnly_count [] s) fun p _ => keeps_count p s⟩

/-- Settles O22: what CLRSTAT's rule writes is the four sticky bits, and the end of the protocol writes ERR only. -/
theorem clrstatClearsStickyBits : Obligations.ClrstatClearsStickyBits := by
  intro s
  have hrule : ruleOf .clrstat s.count = .done (s.count.setStatus s.status.clearSticky) := rfl
  obtain ⟨hexec, hend⟩ := exec_completes hrule (flagsOnly_clearSticky s)
    ((changesOnly_count [] s _).1 (changesOnly_setStatus s.count _))
  have hclear : ∀ f ∈ stickyFlags, ((s.status.clearSticky).setErr 0).flag f = false := fun f hf => by
    rw [Status.flag_setErr, Status.flag_clearSticky _ hf]
  exact ⟨_, hexec, hclear _ (by decide), hclear _ (by decide), hclear _ (by decide), hclear _ (by decide), hend⟩

/-- Settles O23: the three forms run one rule, each on its data's bytes from the most significant down. -/
theorem fbwWritesItsBytesOrNone : Obligations.FbwWritesItsBytesOrNone := by
  intro addr d1 d2 d3 s
  have h1 : bytesOf 1 d1.toNat = [d1] := by
    rw [bytesOf_toNat]
    exact congrArg ([·]) (BitVec.extractLsb'_eq_self)
  have h2 : bytesOf 2 d2.toNat = [d2.extractLsb' 8 8, d2.extractLsb' 0 8] := bytesOf_toNat 2 d2
  have h3 : bytesOf 3 d3.toNat = [d3.extractLsb' 16 8, d3.extractLsb' 8 8, d3.extractLsb' 0 8] := bytesOf_toNat 3 d3
  exact ⟨fbwEffect_of_rule (.fbw1 addr d1) (congrArg (fbwRule addr) h1) s,
    fbwEffect_of_rule (.fbw2 addr d2) (congrArg (fbwRule addr) h2) s,
    fbwEffect_of_rule (.fbw3 addr d3) (congrArg (fbwRule addr) h3) s⟩

/-- Settles O24: SETLEN's rule writes FLEN, which can hold the length, or is refused before any write. -/
theorem setlenDeclaresLength : Obligations.SetlenDeclaresLength := by
  refine fun len s => ⟨fun hfit => ?_, fun hlong => exec_refused _ (.setlen len) s (setlenRule_of_too_long hlong _)⟩
  have hrule : ruleOf (.setlen len) s.count = .done (s.count.setFlen (BitVec.ofNat 24 len)) :=
    setlenRule_of_fits hfit s.count
  obtain ⟨hexec, hend⟩ := exec_completes hrule (flagsOnly_of_status_eq [] rfl)
    ((changesOnly_count _ s _).1 (changesOnly_setFlen s.count _))
  refine ⟨_, hexec, ?_, hend⟩
  rw [conclude_flen]
  exact toNat_frameLength hfit

end

section
/-!
The bitfield extractor (41_bitfield): what the field read answers and the bits it gives, and what EXT does with the
answer.
-/

namespace Sys2Proof.Machine

/-! ### Which fields are read -/

/-- A width outside 1 to 64 is refused before the place of the field is looked at (41_bitfield R133). -/
theorem fieldRead_of_bad_width {w : Nat} (h : w = 0 ∨ 64 < w) (s : State) (src : Source) (place : FieldAt) :
    fieldRead s src place w = .error .invalidFieldSpec := by
  have hw : widthOK w = false := Bool.eq_false_iff.2 fun hok => by
    have := (widthOK_iff w).1 hok
    omega
  simp [fieldRead, hw]

section GoodWidth

variable {src : Source} {nc : Container} {off addr p w : Nat} {s : State} (hpos : 1 ≤ w) (hle : w ≤ 64)
include hpos hle

theorem widthOK_ne_false : ¬ widthOK w = false := by
  rw [(widthOK_iff w).2 ⟨hpos, hle⟩]
  decide

theorem fieldRead_be_of_past_end (h : 8 * s.bufferLen src < off + w) :
    fieldRead s src (.be off) w = .error .truncated := by
  rw [fieldRead_be, if_neg (widthOK_ne_false hpos hle), if_pos h]

theorem fieldRead_be_of_fits (h : off + w ≤ 8 * s.bufferLen src) :
    fieldRead s src (.be off) w = .ok (streamField (s.buffer src) off w) := by
  rw [fieldRead_be, if_neg (widthOK_ne_false hpos hle), if_neg (Nat.not_lt.2 h)]

theorem fieldRead_le_of_past_end (hfit : p + w ≤ 8 * nc.bytes) (h : s.bufferLen src < addr + nc.bytes) :
    fieldRead s src (.le nc addr p) w = .error .truncated := by
  rw [fieldRead_le, if_neg (widthOK_ne_false hpos hle), if_neg (Nat.not_lt.2 hfit), if_pos h]

theorem fieldRead_le_of_fits (hfit : p + w ≤ 8 * nc.bytes) (h : addr + nc.bytes ≤ s.bufferLen src) :
    fieldRead s src (.le nc addr p) w =
      .ok (loadLE (s.buffer src) addr nc.bytes / 2 ^ (8 * nc.bytes - p - w) % 2 ^ w) := by
  rw [fieldRead_le, if_neg (widthOK_ne_false hpos hle), if_neg (Nat.not_lt.2 hfit), if_neg (Nat.not_lt.2 h)]

end GoodWidth

/-- A bad width and a field past its container raise the same error, so their order does not show (41_bitfield R133). -/
theorem fieldRead_le_of_bad_field {src : Source} {nc : Container} {addr p w : Nat} {s : State}
    (h : w = 0 ∨ 64 < w ∨ 8 * nc.bytes < p + w) :
    fieldRead s src (.le nc addr p) w = .error .invalidFieldSpec := by
  by_cases hw : w = 0 ∨ 64 < w
  · exact fieldRead_of_bad_width hw s src _
  · rw [fieldRead_le, if_neg (widthOK_ne_false (by omega) (by omega)), if_pos (by omega)]

/-- Only a field of a legal width is read. -/
theorem width_of_fieldRead {s : State} {src : Source} {place : FieldAt} {w raw : Nat}
    (h : fieldRead s src place w = .ok raw) : 1 ≤ w ∧ w ≤ 64 := by
  by_contra hw
  rw [fieldRead_of_bad_width (by omega)] at h
  cases h

/-! ### The bits of a field -/

/-- Bit j of a container field is container bit 8n - P - W + j, in the byte that holds it (41_bitfield R132). -/
theorem testBit_leField {buf : Nat → Byte} {addr n p w j : Nat} (hfit : p + w ≤ 8 * n) (hj : j < w) :
    (loadLE buf addr n / 2 ^ (8 * n - p - w) % 2 ^ w).testBit j =
      (buf (addr + (8 * n - p - w + j) / 8)).getLsbD ((8 * n - p - w + j) % 8) := by
  rw [Nat.testBit_mod_two_pow, Nat.testBit_div_two_pow, testBit_loadLE, Nat.add_comm j, if_pos (by omega)]
  simp [hj]

/-- Stream bits run from the top of a byte down (00_scope R11). -/
theorem streamBit_in_byte (buf : Nat → Byte) (b : Nat) {k : Nat} (hk : k < 8) :
    streamBit buf (8 * b + k) = (buf b).getLsbD (7 - k) := by
  rw [streamBit, show (8 * b + k) / 8 = b by omega, show (8 * b + k) % 8 = k by omega]

/-- A stream field inside one byte is a bit field of that byte, its offset counted from the byte's top. -/
theorem streamField_in_byte (buf : Nat → Byte) (b : Nat) {p w : Nat} (h : p + w ≤ 8) :
    streamField buf (8 * b + p) w = (buf b).toNat / 2 ^ (8 - p - w) % 2 ^ w := by
  apply Nat.eq_of_testBit_eq
  intro j
  rw [testBit_streamField, Nat.testBit_mod_two_pow, Nat.testBit_div_two_pow]
  by_cases hj : j < w
  · rw [if_pos hj, Nat.add_assoc, streamBit_in_byte buf b (by omega),
      show 7 - (p + (w - 1 - j)) = j + (8 - p - w) by omega]
    simp [hj, BitVec.getLsbD]
  · simp [hj]

theorem loadLE_one (buf : Nat → Byte) (a : Nat) : loadLE buf a 1 = (buf a).toNat := by simp [loadLE_succ]

/-- A container of one byte is the big-endian field at stream bit 8A + P (41_bitfield R136 item 7). With W at least 1,
the byte lies in the buffer exactly when the field does. -/
theorem fieldRead_byteContainer {addr p w : Nat} (s : State) (src : Source) (h : p + w ≤ 8) :
    fieldRead s src (.le .b1 addr p) w = fieldRead s src (.be (8 * addr + p)) w := by
  by_cases hw : w = 0
  · rw [fieldRead_of_bad_width (.inl hw), fieldRead_of_bad_width (.inl hw)]
  have hpos : 1 ≤ w := by omega
  have hle : w ≤ 64 := by omega
  by_cases hin : addr + 1 ≤ s.bufferLen src
  · rw [fieldRead_le_of_fits hpos hle h hin, fieldRead_be_of_fits hpos hle (by omega), streamField_in_byte _ _ h]
    simp only [Container.bytes, loadLE_one]
  · rw [fieldRead_le_of_past_end hpos hle h (Nat.not_le.1 hin), fieldRead_be_of_past_end hpos hle (by omega)]

/-! ### EXT -/

theorem extRule_of_ok {sg : Signedness} {src : Source} {place : FieldAt} {w raw : Nat} {s : State}
    (h : fieldRead s src place w = .ok raw) : extRule sg src place w s = .done (writeResult sg w raw s) := by
  rw [extRule, h]

theorem extRule_of_error {sg : Signedness} {src : Source} {place : FieldAt} {w : Nat} {e : Err} {s : State}
    (h : fieldRead s src place w = .error e) : extRule sg src place w s = .raise e s := by
  rw [extRule, h]

theorem ruleOf_extAt (sg : Signedness) (src : Source) (place : FieldAt) (w : Nat) :
    ruleOf (extAt sg src place w) = extRule sg src place w := by
  cases place <;> rfl

/-- EXT of a field that is read: RES is the widened field, its two flags tell of it, and nothing else is written
(41_bitfield R134). -/
theorem ext_completes (sg : Signedness) {src : Source} {place : FieldAt} {w raw : Nat} {s : State}
    (h : fieldRead s src place w = .ok raw) :
    ∃ t, exec (extAt sg src place w) s = .next t ∧ t.res = widen sg w raw ∧
      t.status.flag .resValid = true ∧ t.status.flag .resSigned = sg.isSigned ∧
      succeeds [.resValid, .resSigned] s t ∧ changesOnly [.res] s t := by
  have hrule : ruleOf (extAt sg src place w) s.count = .done (writeResult sg w raw s.count) := by
    rw [ruleOf_extAt]
    exact extRule_of_ok (by rwa [fieldRead_count])
  obtain ⟨hexec, hend⟩ := exec_completes hrule (flagsOnly_writeResult sg w raw s.count)
    ((changesOnly_count _ s _).1 (changesOnly_writeResult sg w raw s.count))
  have hflag : ∀ f, (conclude (encode (extAt sg src place w)) (.done (writeResult sg w raw s.count))).status.flag f =
      (s.status.setResult sg.isSigned).flag f := Status.flag_setErr _ 0
  exact ⟨_, hexec, rfl, (hflag .resValid).trans (Status.getLsbD_setResult _ _ _),
    (hflag .resSigned).trans (Status.getLsbD_setResult _ _ _), hend⟩

theorem opcode_extAt (sg : Signedness) (src : Source) (place : FieldAt) (w : Nat) :
    (extAt sg src place w).opcode = 0x10 := by
  cases place <;> rfl

/-- A well-formed EXT's word asks for RES (60_exceptions R224). -/
theorem producesRes_extAt {sg : Signedness} {src : Source} {place : FieldAt} {w : Nat}
    (hwf : (extAt sg src place w).wf = true) : producesRes (encode (extAt sg src place w)) = true := by
  rw [producesRes_iff, opField_encode _ hwf, opcode_extAt]
  exact .inl rfl

/-- EXT of a field that is not read raises the field read's own error (41_bitfield R134). -/
theorem ext_refused {sg : Signedness} {src : Source} {place : FieldAt} {w : Nat} {e : Err} {s : State}
    (hwf : (extAt sg src place w).wf = true) (h : fieldRead s src place w = .error e) :
    resultRefused e (extAt sg src place w) s := by
  have hrule : ruleOf (extAt sg src place w) s.count = .raise e s.count := by
    rw [ruleOf_extAt]
    exact extRule_of_error (by rwa [fieldRead_count])
  obtain ⟨t, hexec, hfails, hparts⟩ := exec_refused e _ s hrule
  have ⟨_, _, _, _, hvalid, _⟩ := hfails
  exact ⟨t, hexec, hfails, hparts, hvalid (producesRes_extAt hwf)⟩

/-- A signed result is the raw field, raised by 2^64 - 2^W when its top bit is 1 (41_bitfield R135). -/
theorem toNat_widen_signed {n v : Nat} (hpos : 1 ≤ n) (hle : n ≤ 64) (hv : v < 2 ^ n) :
    (widen .signed n v).toNat = v + if v.testBit (n - 1) then 2 ^ 64 - 2 ^ n else 0 := by
  have hmsb : (BitVec.ofNat n v).msb = v.testBit (n - 1) := by
    rw [BitVec.msb_eq_getLsbD_last, BitVec.getLsbD_ofNat]
    simp [show n - 1 < n by omega]
  rw [widen_signed n v hpos hv, BitVec.toNat_signExtend, hmsb, BitVec.toNat_setWidth_of_le hle, BitVec.toNat_ofNat,
    Nat.mod_eq_of_lt hv]

/-- Which word ran a rule shows in STATUS only by whether it asked for RES. -/
theorem conclude_status_congr {w w' : Word} (h : producesRes w = producesRes w') (r : RuleEnd) :
    (conclude w r).status = (conclude w' r).status := by
  cases r with
  | done s => rfl
  | raise e s => simp only [conclude_raise_status, Status.noteError, h]

/-- Which word ran a rule shows in no part of the state. -/
theorem changesOnly_conclude_conclude (w w' : Word) (r : RuleEnd) : changesOnly [] (conclude w r) (conclude w' r) := by
  intro p _
  cases p <;> simp [keeps]

end Sys2Proof.Machine

open Sys2Proof Sys2Proof.Machine

/-- Settles O53: each clause is the branch of the field read that its bounds select. -/
theorem fieldReadAnswers : Obligations.FieldReadAnswers := by
  constructor
  · intro s src off w
    refine ⟨fun hw => fieldRead_of_bad_width hw s src _, fieldRead_be_of_past_end,
      fun hpos hle h => ⟨_, fieldRead_be_of_fits hpos hle h, streamField_lt _ _ _, fun j hj => ?_⟩⟩
    rw [testBit_streamField, if_pos hj]
  · intro s src nc addr p w
    refine ⟨fieldRead_le_of_bad_field, fieldRead_le_of_past_end,
      fun hpos hle hfit h => ⟨_, fieldRead_le_of_fits hpos hle hfit h, Nat.mod_lt _ (by positivity), ?_⟩⟩
    rintro j hj k rfl
    exact testBit_leField hfit hj

/-- Settles O25: RES bit j below W is stream bit A + (W - 1 - j), so the bit copied above W is the first. -/
theorem extBigEndianReadsField : Obligations.ExtBigEndianReadsField := by
  intro sg src off w s hpos hle hin
  obtain ⟨t, hexec, hres, hend⟩ := ext_completes sg (fieldRead_be_of_fits hpos hle hin)
  refine ⟨t, hexec, fun j hj => ?_, hend⟩
  rw [hres, getLsbD_widen sg w _ j hpos (streamField_lt _ _ _) hj, testBit_streamField, testBit_streamField,
    if_pos (show w - 1 < w by omega), Nat.sub_self, Nat.add_zero]
  by_cases h : j < w
  · simp only [if_pos h]
  · simp only [if_neg h]

/-- Settles O26: the bit copied above W is the field's bit W - 1. -/
theorem extLittleEndianReadsField : Obligations.ExtLittleEndianReadsField := by
  intro sg src nc addr w p s hpos hle hfit hin
  obtain ⟨t, hexec, hres, hend⟩ := ext_completes sg (fieldRead_le_of_fits hpos hle hfit hin)
  refine ⟨t, hexec, ?_, hend⟩
  rintro j hj k rfl
  rw [hres, getLsbD_widen sg w _ j hpos (Nat.mod_lt _ (by positivity)) hj]
  by_cases h : j < w
  · simp only [if_pos h, testBit_leField hfit h, decide_eq_true h, Bool.true_or, Bool.true_and]
  · simp only [if_neg h, testBit_leField hfit (show w - 1 < w by omega), decide_eq_false h, Bool.false_or]

/-- Settles O27: EXT raises the error the field read answers, in the field read's own order. -/
theorem extErrorsInOrder : Obligations.ExtErrorsInOrder := by
  constructor
  · intro sg src off w s hwf
    exact ⟨fun hw => ext_refused (place := .be off) hwf (fieldRead_of_bad_width hw s src _),
      fun hpos hle h => ext_refused (place := .be off) hwf (fieldRead_be_of_past_end hpos hle h)⟩
  · intro sg src nc addr w p s hwf
    exact ⟨fun hbad => ext_refused (place := .le nc addr p) hwf (fieldRead_le_of_bad_field hbad),
      fun hpos hle hfit h => ext_refused (place := .le nc addr p) hwf (fieldRead_le_of_past_end hpos hle hfit h)⟩

/-- Settles O28: a raw field fits its width, which is at most 64, so 2^W added to its sign-extension wraps once. -/
theorem signExtensionLaw : Obligations.SignExtensionLaw := by
  intro src place w raw s h
  obtain ⟨hpos, hle⟩ := width_of_fieldRead h
  have hraw : raw < 2 ^ w := fieldRead_lt s src place w raw h
  have hw : 2 ^ w ≤ 2 ^ 64 := Nat.pow_le_pow_right (by decide) hle
  obtain ⟨tu, hexecu, hresu, -⟩ := ext_completes .unsigned h
  obtain ⟨ts, hexecs, hress, -⟩ := ext_completes .signed h
  refine ⟨tu, ts, hexecu, hexecs, ?_, fun htop => ?_, fun htop => ?_⟩
  · rw [hresu, widen_unsigned, BitVec.toNat_ofNat, Nat.mod_eq_of_lt (by omega)]
  · rw [hress, toNat_widen_signed hpos hle hraw, htop]
    rfl
  · rw [hress, toNat_widen_signed hpos hle hraw, if_pos htop]
    omega

/-- Settles O29: the two commands read one field, so their rules end alike, and both words ask for RES. -/
theorem byteContainerIsBigEndianField : Obligations.ByteContainerIsBigEndianField := by
  intro sg src addr w p s hoff hfit
  have hrule : extRule sg src (.be (8 * addr + p)) w s.count = extRule sg src (.le .b1 addr p) w s.count := by
    rw [extRule, extRule, fieldRead_byteContainer _ src hfit]
  have hle : (extAt sg src (.le .b1 addr p) w).wf = true := by
    simp only [extAt, Instr.wf, decide_eq_true_eq]
    omega
  have hbe : (extAt sg src (.be (8 * addr + p)) w).wf = true := by
    simp only [extAt, Instr.wf, decide_eq_true_eq]
    omega
  refine ⟨_, _, exec_eq _ s, exec_eq _ s, ?_⟩
  simp only [ruleOf, hrule]
  refine ⟨conclude_status_congr ?_ _, by simp only [conclude_cSeq], changesOnly_conclude_conclude _ _ _⟩
  exact (producesRes_extAt hbe).trans (producesRes_extAt hle).symm

/-- Settles O30: the operands of a label place the field's low bit at container bit or byte bit `lo`. -/
theorem labelledFieldsAreRead : Obligations.LabelledFieldsAreRead := by
  constructor
  · intro sg src nc a hi lo s hlo hhi hin
    have hn : nc.bytes ≤ 8 := by cases nc <;> decide
    have hread := fieldRead_le_of_fits (p := 8 * nc.bytes - 1 - hi) (w := hi - lo + 1) (by omega) (by omega)
      (by omega) hin
    obtain ⟨t, hexec, hres, -, -, hsucc, -⟩ := ext_completes sg hread
    obtain ⟨-, herr, -⟩ := hsucc
    refine ⟨t, hexec, herr, ?_⟩
    rw [hres, bitField, show 8 * nc.bytes - (8 * nc.bytes - 1 - hi) - (hi - lo + 1) = lo by omega,
      show hi + 1 - lo = hi - lo + 1 by omega]
  · intro sg src b hi lo s hlo hhi hin
    have hread := fieldRead_be_of_fits (src := src) (s := s) (off := 8 * b + 7 - hi) (w := hi - lo + 1) (by omega)
      (by omega) (by omega)
    obtain ⟨t, hexec, hres, -, -, hsucc, -⟩ := ext_completes sg hread
    obtain ⟨-, herr, -⟩ := hsucc
    refine ⟨t, hexec, herr, ?_⟩
    rw [hres, bitField, show 8 * b + 7 - hi = 8 * b + (7 - hi) by omega, streamField_in_byte _ _ (by omega),
      show 8 - (7 - hi) - (hi - lo + 1) = lo by omega, show hi + 1 - lo = hi - lo + 1 by omega]

end

section
/-!
The CRC24Q generator as a function of bits (42_crc24q R151 to R156, R164, R165): the table fold is the serial fold, a
generator stands for a serial register that the bits in D have not reached yet, and a register fed its own bits empties.
-/

namespace Sys2Proof.Machine

/-! ### The serial register -/

/-- The register's step is linear in the register and the bit. -/
theorem serialStep_xor (c c' : BitVec 24) (b b' : Bool) :
    serialStep (c ^^^ c') (b ^^ b') = serialStep c b ^^^ serialStep c' b' := by
  have hshift : (c ^^^ c') <<< 1 = c <<< 1 ^^^ c' <<< 1 := BitVec.shiftLeft_xor_distrib c c' 1
  have hbit : ((c ^^^ c').getLsbD 23 ^^ (b ^^ b')) = ((c.getLsbD 23 ^^ b) ^^ (c'.getLsbD 23 ^^ b')) := by
    rw [BitVec.getLsbD_xor, Bool.xor_assoc, Bool.xor_assoc, Bool.xor_left_comm (c'.getLsbD 23)]
  simp only [serialStep, hbit, hshift]
  cases c.getLsbD 23 ^^ b <;> cases c'.getLsbD 23 ^^ b' <;> grind

/-- A register fed its own top bit shifts without feedback. -/
theorem serialStep_top (c : BitVec 24) : serialStep c (c.getLsbD 23) = c <<< 1 := by
  simp [serialStep]

/-- A register fed its own bits from the top shifts them out. -/
theorem foldl_serialStep_own_bits (c : BitVec 24) {n : Nat} (hn : n ≤ 24) :
    ((List.range n).map fun k => c.getLsbD (23 - k)).foldl serialStep c = c <<< n := by
  induction n with
  | zero => simp
  | succ n ih =>
    have htop : c.getLsbD (23 - n) = (c <<< n).getLsbD 23 := by
      rw [BitVec.getLsbD_shiftLeft]
      simp [show ¬ 23 < n by omega]
    rw [List.range_succ, List.map_append, List.foldl_append, ih (by omega), List.map_singleton, List.foldl_cons,
      List.foldl_nil, htop, serialStep_top, BitVec.shiftLeft_add]

/-! ### The two folds -/

theorem foldSerial_eq (c : BitVec 24) (d : BitVec 8) :
    foldSerial c d = ((List.range 8).map fun k => d.getLsbD (7 - k)).foldl serialStep c := rfl

theorem foldl_serialStep_xor (l : List Nat) (f f' : Nat → Bool) (c c' : BitVec 24) :
    (l.map fun k => f k ^^ f' k).foldl serialStep (c ^^^ c') =
      (l.map f).foldl serialStep c ^^^ (l.map f').foldl serialStep c' := by
  induction l generalizing c c' with
  | nil => rfl
  | cons k l ih => simp only [List.map_cons, List.foldl_cons, serialStep_xor, ih]

/-- The serial fold is linear in the register and the byte. -/
theorem foldSerial_xor (c c' : BitVec 24) (d d' : BitVec 8) :
    foldSerial (c ^^^ c') (d ^^^ d') = foldSerial c d ^^^ foldSerial c' d' := by
  simp only [foldSerial_eq, BitVec.getLsbD_xor, foldl_serialStep_xor]

/-- A register that folds its own top byte shifts it out. -/
theorem foldSerial_top_byte (c : BitVec 24) : foldSerial c (c.extractLsb' 16 8) = c <<< 8 := by
  rw [foldSerial_eq, ← foldl_serialStep_own_bits c (by decide : 8 ≤ 24)]
  refine congrArg (List.foldl serialStep c) (List.map_congr_left fun k hk => ?_)
  rw [List.mem_range] at hk
  rw [BitVec.getLsbD_extractLsb', decide_eq_true (by omega), Bool.true_and, show 16 + (7 - k) = 23 - k by omega]

/-- The table's entries are the folds of a byte into a zero register: 256 cases (42_crc24q R153). -/
theorem foldSerial_zero (i : BitVec 8) : foldSerial 0 i = lutEntry i := by
  revert i
  decide +kernel

/-- The byte folded is the register's top byte and a difference from it: the one shifts out, and the table has what the
other leaves. -/
theorem foldLut_eq_foldSerial (c : BitVec 24) (d : BitVec 8) : foldLut c d = foldSerial c d := by
  have hbyte : c.extractLsb' 16 8 ^^^ (c.extractLsb' 16 8 ^^^ d) = d := by simp
  have hzero : c ^^^ 0 = c := BitVec.xor_zero
  calc foldLut c d = foldSerial c (c.extractLsb' 16 8) ^^^ foldSerial 0 (c.extractLsb' 16 8 ^^^ d) := by
        rw [foldSerial_top_byte, foldSerial_zero, foldLut]
    _ = foldSerial c d := by rw [← foldSerial_xor, hzero, hbyte]

theorem fold_eq_foldSerial (impl : CrcImpl) (c : BitVec 24) (d : BitVec 8) : fold impl c d = foldSerial c d := by
  cases impl with
  | lut => exact foldLut_eq_foldSerial c d
  | bitwise => rfl

/-- The table fold over the numbers, as rule R152 writes it. -/
theorem toNat_foldLut (c : BitVec 24) (d : BitVec 8) : (foldLut c d).toNat = foldNumber c d := by
  have htop : (c.extractLsb' 16 8).toNat = c.toNat / 2 ^ 16 := by
    have := c.isLt
    rw [BitVec.extractLsb'_toNat, Nat.shiftRight_eq_div_pow]
    omega
  rw [foldLut, BitVec.toNat_xor, BitVec.toNat_shiftLeft, Nat.shiftLeft_eq, lutEntry, BitVec.toNat_xor, htop,
    foldNumber, Nat.xor_mod_two_pow, Nat.mod_eq_of_lt (BitVec.isLt _)]

/-! ### The generator against the serial register -/

/-- The serial register a generator stands for: CRC, fed the DCNT bits of D that are not folded yet. -/
def CrcGen.serial (g : CrcGen) : BitVec 24 := (bitsOf g.dcnt.toNat g.d.toNat).foldl serialStep g.crc

/-- At a byte boundary no bit is outstanding. -/
theorem CrcGen.serial_of_dcnt_eq_zero {g : CrcGen} (h : g.dcnt = 0) : g.serial = g.crc := by
  rw [CrcGen.serial, h]
  rfl

theorem toNat_dcnt_succ {n : BitVec 3} (h : n.toNat < 7) : (n + 1).toNat = n.toNat + 1 := by
  rw [BitVec.toNat_add]
  simp
  omega

/-- A bit shifted into D comes after the bits held there. -/
theorem bitsOf_shiftIn (d : BitVec 8) (b : Bool) {n : Nat} (hn : n < 8) :
    bitsOf (n + 1) ((d <<< 1) ^^^ (BitVec.ofBool b).setWidth 8).toNat = bitsOf n d.toNat ++ [b] := by
  rw [toNat_shiftIn, show (256 : Nat) = 2 ^ 8 by rfl, bitsOf, List.range_succ, List.map_append, List.map_singleton]
  congr 1
  · refine List.map_congr_left fun i hi => ?_
    rw [List.mem_range] at hi
    have hhalf : (2 * d.toNat + b.toNat) / 2 = d.toNat := by
      have := b.toNat_lt
      omega
    rw [Nat.testBit_mod_two_pow, decide_eq_true (by omega), Bool.true_and,
      show n + 1 - 1 - i = n - 1 - i + 1 by omega, Nat.testBit_succ, hhalf]
  · cases b <;> simp [Nat.testBit_zero, Nat.add_mod]

/-- CrcBit steps the serial register, whether or not it completes a byte. -/
theorem serial_crcBit (g : CrcGen) (b : Bool) : (crcBit g b).serial = serialStep g.serial b := by
  have hlt := g.dcnt.isLt
  have hstep : (bitsOf (g.dcnt.toNat + 1) ((g.d <<< 1) ^^^ (BitVec.ofBool b).setWidth 8).toNat).foldl serialStep g.crc =
      serialStep g.serial b := by
    rw [bitsOf_shiftIn _ _ hlt, List.foldl_append]
    rfl
  by_cases h : g.dcnt.toNat = 7
  · rw [h] at hstep
    rw [crcBit_fold g b h, CrcGen.serial_of_dcnt_eq_zero rfl, fold_eq_foldSerial]
    exact hstep
  · rw [crcBit_shift g b (by omega), CrcGen.serial, toNat_dcnt_succ (by omega)]
    exact hstep

theorem serial_crcFeed (l : List Bool) (g : CrcGen) : (crcFeed g l).serial = l.foldl serialStep g.serial := by
  induction l generalizing g with
  | nil => rfl
  | cons b l ih => rw [crcFeed_cons, ih, serial_crcBit, List.foldl_cons]

/-- After bits that end at a byte boundary CRC is the serial register. -/
theorem crc_crcFeed {g : CrcGen} {l : List Bool} (hg : g.dcnt = 0) (hl : l.length % 8 = 0) :
    (crcFeed g l).dcnt = 0 ∧ (crcFeed g l).crc = l.foldl serialStep g.crc := by
  have hd : (crcFeed g l).dcnt = 0 := by
    apply BitVec.eq_of_toNat_eq
    rw [crcFeed_dcnt, hg]
    simpa using hl
  refine ⟨hd, ?_⟩
  rw [← CrcGen.serial_of_dcnt_eq_zero hd, serial_crcFeed, CrcGen.serial_of_dcnt_eq_zero hg]

/-! ### Padding and residue -/

/-- Zero bits leave a zero register at zero. -/
theorem foldl_serialStep_zeros (n : Nat) : (List.replicate n false).foldl serialStep 0 = 0 := by
  induction n with
  | zero => rfl
  | succ n ih => exact ih

/-- A generator whose CRC and serial register are both zero keeps them so under zero bits. -/
theorem crc_crcFeed_zeros (n : Nat) {g : CrcGen} (hcrc : g.crc = 0) (hserial : g.serial = 0) :
    (crcFeed g (List.replicate n false)).crc = 0 := by
  induction n generalizing g with
  | zero => exact hcrc
  | succ n ih =>
    have hstep : (crcBit g false).serial = 0 := by
      rw [serial_crcBit, hserial]
      rfl
    refine ih ?_ hstep
    have hlt := g.dcnt.isLt
    by_cases h : g.dcnt.toNat = 7
    · rw [← CrcGen.serial_of_dcnt_eq_zero (by rw [crcBit_fold g false h]), hstep]
    · rw [crcBit_shift g false (by omega), hcrc]

/-- Pad bits that complete the bytes of a message leave its serial CRC (42_crc24q R164). -/
theorem crc_crcFeed_padded {pad : Nat} {message : List Bool} (h : (pad + message.length) % 8 = 0) :
    (crcFeed ⟨0, 0, 0⟩ (List.replicate pad false ++ message)).crc = message.foldl serialStep 0 := by
  have hlen : (List.replicate pad false ++ message).length % 8 = 0 := by simpa using h
  rw [(crc_crcFeed rfl hlen).2, List.foldl_append, foldl_serialStep_zeros]

/-- A CRC at a byte boundary, fed its own 24 bits, is 0 (42_crc24q R165). -/
theorem crc_crcFeed_own_bits {g : CrcGen} (h : g.dcnt = 0) :
    (crcFeed g ((List.range 24).map fun k => g.crc.getLsbD (23 - k))).crc = 0 := by
  rw [(crc_crcFeed h (by simp)).2, foldl_serialStep_own_bits g.crc (Nat.le_refl 24)]
  exact BitVec.shiftLeft_eq_zero (Nat.le_refl 24)

end Sys2Proof.Machine

open Sys2Proof Sys2Proof.Machine

/-- Settles O33: the table has 256 entries, and each is checked against its construction. -/
theorem lookupTableFollowsConstruction : Obligations.LookupTableFollowsConstruction := by
  exact ⟨by decide +kernel, by decide +kernel⟩

/-- Settles O34: by linearity of the serial fold. -/
theorem foldConstructionsAgree : Obligations.FoldConstructionsAgree := by
  refine ⟨foldLut_eq_foldSerial, fun g b => ?_⟩
  simp only [crcBitWith, fold_eq_foldSerial]

/-- Settles O32: the model's two branches of CrcBit, over the numbers. -/
theorem crcBitShiftsAndFolds : Obligations.CrcBitShiftsAndFolds := by
  refine fun g b => ⟨fun h => ?_, fun h => ?_⟩
  · rw [crcBit_shift g b h]
    exact ⟨rfl, toNat_shiftIn g.d b, toNat_dcnt_succ h⟩
  · have hd : (g.d <<< 1) ^^^ (BitVec.ofBool b).setWidth 8 = BitVec.ofNat 8 (2 * g.d.toNat + b.toNat) :=
      BitVec.eq_of_toNat_eq (toNat_shiftIn g.d b)
    rw [crcBit_fold g b h, hd]
    exact ⟨toNat_foldLut _ _, rfl, rfl⟩

/-- Settles O41: from zero, zero bits leave the serial register, and with it CRC, at zero. -/
theorem paddingLaw : Obligations.PaddingLaw := by
  refine ⟨fun n d => crc_crcFeed_zeros n rfl rfl, fun pad message h => crc_crcFeed_padded h, fun s => ?_⟩
  exact crc_crcFeed_padded (by simp)

/-- Settles O42: the message ends at a byte boundary, so CRC is the serial register, which its own bits shift out. -/
theorem residueLaw : Obligations.ResidueLaw := by
  rintro message g hlen rfl
  exact crc_crcFeed_own_bits (crc_crcFeed rfl hlen).1

end

section
/-!
The CRC commands (42_crc24q R157 to R162): a command that feeds bits, the comparison with a trailer, CRC_SBAS on whole
and on short frames, and the commands in sequence on written frames.
-/

namespace Sys2Proof.Machine

/-! ### Two writes in a row -/

theorem changesOnly_trans {ps qs : List Part} {s t u : State} (h : changesOnly ps s t) (k : changesOnly qs t u) :
    changesOnly (ps ++ qs) s u := by
  intro p hp
  rw [List.mem_append, not_or] at hp
  exact keeps_trans (h p hp.1) (k p hp.2)

theorem flagsOnly_trans {fs gs hs : List Flag} {s t u : State} (h : flagsOnly fs s t) (k : flagsOnly gs t u)
    (hfs : fs ⊆ hs) (hgs : gs ⊆ hs) : flagsOnly hs s u :=
  fun j hj hne => (k j hj fun f hf => hne f (hgs hf)).trans (h j hj fun f hf => hne f (hfs hf))

/-! ### The flags of the check -/

/-- The second of two check results decides both flags. -/
theorem Status.setCrcCheck_setCrcCheck (st : Status) (r r' : Option Bool) :
    (st.setCrcCheck r).setCrcCheck r' = st.setCrcCheck r' := by
  refine Status.ext_bits fun j _ => ?_
  simp only [Status.getLsbD_setCrcCheck]
  split_ifs <;> rfl

theorem Status.setErr_setErr (st : Status) (c c' : BitVec 3) : (st.setErr c).setErr c' = st.setErr c' := by
  refine Status.ext_bits fun j _ => ?_
  simp only [Status.getLsbD_setErr]
  split_ifs <;> rfl

/-- ERR lies below the check flags. -/
theorem Status.setErr_setCrcCheck (st : Status) (c : BitVec 3) (r : Option Bool) :
    (st.setErr c).setCrcCheck r = (st.setCrcCheck r).setErr c := by
  refine Status.ext_bits fun j _ => ?_
  simp only [Status.getLsbD_setErr, Status.getLsbD_setCrcCheck]
  by_cases h : j < 3
  · simp [h, show j ≠ 9 by omega, show j ≠ 8 by omega]
  · simp [h]

/-- ERR lies below MISMATCH_S. -/
theorem Status.setErr_noteMismatch (st : Status) (c : BitVec 3) (ok : Bool) :
    (st.setErr c).noteMismatch ok = (st.noteMismatch ok).setErr c := by
  cases ok with
  | true => rfl
  | false =>
    refine Status.ext_bits fun j _ => ?_
    simp only [Status.getLsbD_setErr, Status.getLsbD_noteMismatch]
    by_cases h : j < 3
    · simp [h, show j ≠ 7 by omega]
    · simp [h]

@[simp] theorem restartCrc_errCmd (g : CrcGen) (s : State) : (restartCrc g s).errCmd = s.errCmd := rfl

@[simp] theorem compareCrc_errCmd (rx : BitVec 24) (s : State) : (compareCrc rx s).errCmd = s.errCmd := rfl

/-- What a restart of the generator leaves in CRC_DONE and CRC_OK. -/
theorem restartCrc_flags (g : CrcGen) (s : State) :
    (restartCrc g s).status.flag .crcDone = false ∧ (restartCrc g s).status.flag .crcOk = false :=
  ⟨Status.getLsbD_setCrcCheck _ _ _, Status.getLsbD_setCrcCheck _ _ _⟩

/-! ### Commands that feed bits -/

/-- A command whose rule restarts the check with new generator registers completes. -/
theorem restart_completes {i : Instr} {g : CrcGen} {s : State} (h : ruleOf i s.count = .done (restartCrc g s.count)) :
    ∃ t, exec i s = .next t ∧ t.gen = g ∧ t.status.flag .crcDone = false ∧ t.status.flag .crcOk = false ∧
      succeeds [.crcDone, .crcOk] s t ∧ changesOnly [.gen] s t := by
  obtain ⟨hexec, hend⟩ := exec_completes h (flagsOnly_restartCrc g s.count)
    ((changesOnly_count _ s _).1 (changesOnly_restartCrc g s.count))
  have hflag := Status.flag_setErr (restartCrc g s.count).status 0
  obtain ⟨hdone, hok⟩ := restartCrc_flags g s.count
  exact ⟨_, hexec, rfl, (hflag .crcDone).trans hdone, (hflag .crcOk).trans hok, hend⟩

theorem feedEffect_of_rule {i : Instr} {bits : List Bool} {s : State}
    (h : ruleOf i s.count = .done (restartCrc (crcFeed s.gen bits) s.count)) : feedEffect i bits s :=
  restart_completes h

theorem exec_of_done {i : Instr} {s t : State} (h : ruleOf i s.count = .done t) :
    exec i s = .next (conclude (encode i) (.done t)) := by
  rw [exec_eq, h]

theorem crcRunRule_of_fits {pad off count : Nat} {s : State} (h : off + count ≤ 8 * s.flen.toNat) :
    ruleOf (.crcRun pad off count) s.count =
      .done (restartCrc (crcFeed s.gen (List.replicate pad false ++ streamBits s.fbByte off count)) s.count) :=
  (crcRunRule_eq pad off count s.count).trans (if_pos h)

theorem crcRunRule_of_past_end {pad off count : Nat} {s : State} (h : 8 * s.flen.toNat < off + count) :
    ruleOf (.crcRun pad off count) s.count = .raise .truncated s.count :=
  (crcRunRule_eq pad off count s.count).trans (if_neg (Nat.not_le.2 h))

/-! ### The comparison -/

/-- The trailer's 24 bits, its first the most significant (42_crc24q R160). -/
theorem getLsbD_trailer (buf : Nat → Byte) (off : Nat) {j : Nat} (hj : j < 24) :
    (BitVec.ofNat 24 (streamField buf off 24)).getLsbD j = streamBit buf (off + (23 - j)) := by
  rw [BitVec.getLsbD_ofNat, decide_eq_true hj, Bool.true_and, testBit_streamField, if_pos hj]

theorem compareCrc_flags (rx : BitVec 24) (s : State) :
    (compareCrc rx s).status.flag .crcDone = true ∧
      (compareCrc rx s).status.flag .crcOk = decide (rx = s.gen.crc) ∧
      (compareCrc rx s).status.flag .mismatchS = (s.status.flag .mismatchS || decide (rx ≠ s.gen.crc)) := by
  have hbit := Status.getLsbD_noteMismatch (s.status.setCrcCheck (some (rx == s.gen.crc))) (rx == s.gen.crc)
  have hkept := Status.getLsbD_setCrcCheck s.status (some (rx == s.gen.crc))
  refine ⟨(hbit 8).trans (hkept 8), (hbit 9).trans (hkept 9), (hbit 7).trans ?_⟩
  rw [if_pos rfl, (hkept 7).trans (if_neg (by decide)), Bool.or_comm, decide_not]
  rfl

/-- A comparison in a state with the MISMATCH_S of s records the comparison with the trailer in the frame of s. -/
theorem crcCompared_conclude (w : Word) (off : Nat) {s u : State}
    (hm : u.status.flag .mismatchS = s.status.flag .mismatchS) :
    crcCompared off s (conclude w (.done (compareCrc (BitVec.ofNat 24 (streamField s.fbByte off 24)) u))) := by
  obtain ⟨hdone, hok, hmismatch⟩ := compareCrc_flags (BitVec.ofNat 24 (streamField s.fbByte off 24)) u
  have hflag := fun f => Status.flag_setErr (compareCrc (BitVec.ofNat 24 (streamField s.fbByte off 24)) u).status 0 f
  rw [hm] at hmismatch
  exact ⟨fun j hj => getLsbD_trailer _ _ hj, (hflag .crcDone).trans hdone, (hflag .crcOk).trans hok,
    (hflag .mismatchS).trans hmismatch⟩

theorem crcCheckRule_of_fits {off : Nat} {s : State} (hd : s.gen.dcnt = 0) (h : off + 24 ≤ 8 * s.flen.toNat) :
    ruleOf (.crcCheck off) s.count =
      .done (compareCrc (BitVec.ofNat 24 (streamField s.fbByte off 24)) s.count) :=
  (crcCheckRule_eq off s.count).trans ((if_neg (not_not.2 hd)).trans (if_pos h))

theorem crcCheckRule_of_unfolded {off : Nat} {s : State} (hd : s.gen.dcnt ≠ 0) :
    ruleOf (.crcCheck off) s.count = .raise .invalidFieldSpec s.count :=
  (crcCheckRule_eq off s.count).trans (if_pos hd)

theorem crcCheckRule_of_past_end {off : Nat} {s : State} (hd : s.gen.dcnt = 0) (h : 8 * s.flen.toNat < off + 24) :
    ruleOf (.crcCheck off) s.count = .raise .truncated s.count :=
  (crcCheckRule_eq off s.count).trans ((if_neg (not_not.2 hd)).trans (if_neg (Nat.not_le.2 h)))

/-! ### CRC_SBAS -/

theorem sbasGen_eq (s : State) :
    sbasGen s = crcFeed ⟨0, 0, 0⟩ (List.replicate 6 false ++ streamBits s.fbByte 0 226) := by
  simp only [sbasGen, crcFeed, streamBits, Nat.zero_add]

/-- 6 pad bits and 226 message bits are 29 whole bytes. -/
theorem dcnt_sbasGen (s : State) : (sbasGen s).dcnt = 0 := by
  rw [sbasGen_eq]
  exact (crc_crcFeed rfl (by simp)).1

theorem crcSbasRule_of_whole {s : State} (h : 32 ≤ s.flen.toNat) :
    ruleOf .crcSbas s.count =
      .done (compareCrc (BitVec.ofNat 24 (streamField s.fbByte 226 24)) (restartCrc (sbasGen s) s.count)) := by
  have h29 : ¬ s.flen.toNat < 29 := by omega
  exact (crcSbasRule_eq (sbasGen s) s.count (sbasGen_eq s)).trans ((if_neg h29).trans (if_neg (Nat.not_lt.2 h)))

theorem crcSbasRule_of_short {s : State} (h : s.flen.toNat < 32) :
    ruleOf .crcSbas s.count =
      .raise .truncated (restartCrc (if s.flen.toNat < 29 then ⟨0, 0, 0⟩ else sbasGen s) s.count) := by
  refine (crcSbasRule_eq (sbasGen s) s.count (sbasGen_eq s)).trans ?_
  rw [State.count_flen, if_pos h]
  split <;> rfl

/-- CRC_SBAS on a whole frame: the generator over pad and message, and the comparison with the trailer. -/
theorem crcSbas_completes {s : State} (h : 32 ≤ s.flen.toNat) :
    ∃ t, exec .crcSbas s = .next t ∧ t.gen = sbasGen s ∧ crcCompared 226 s t ∧
      succeeds [.crcDone, .crcOk, .mismatchS] s t ∧ changesOnly [.gen, .crcRx] s t := by
  have hrun : flagsOnly [.crcDone, .crcOk] s (restartCrc (sbasGen s) s.count) := flagsOnly_restartCrc _ s.count
  obtain ⟨hexec, hend⟩ := exec_completes (crcSbasRule_of_whole h)
    (flagsOnly_trans (hs := [.crcDone, .crcOk, .mismatchS]) hrun (flagsOnly_compareCrc _ _) (by decide) (by decide))
    ((changesOnly_count _ s _).1 (changesOnly_trans (changesOnly_restartCrc _ _) (changesOnly_compareCrc _ _)))
  refine ⟨_, hexec, ?_, crcCompared_conclude _ 226 (flag_of_flagsOnly hrun (by decide)), hend⟩
  simp only [conclude_gen, RuleEnd.kept_done, compareCrc_gen, restartCrc_gen]

/-! ### Commands in sequence on written frames -/

/-- A written byte reads alike in all states that hold it, whatever their draws. -/
theorem fbByte_of_written {s t : State} {a : Nat} (hr : t.fb.read a = s.fb.read a) (hw : s.fb.read a ≠ none) :
    t.fbByte a = s.fbByte a := by
  obtain ⟨b, hb⟩ := Option.ne_none_iff_exists'.1 hw
  rw [State.fbByte_of_read s a b hb, State.fbByte_of_read t a b (hr.trans hb)]

theorem streamBits_of_written {s t : State} {len off n : Nat} (ht : t.fb = s.fb)
    (hw : ∀ a < len, s.fb.read a ≠ none) (hn : off + n ≤ 8 * len) :
    streamBits t.fbByte off n = streamBits s.fbByte off n :=
  streamBits_congr_bytes (fun a ha => fbByte_of_written (by rw [ht]) (hw a ha)) hn

/-- The state after CRC_INIT. -/
def afterCrcInit (s : State) : State := conclude (encode .crcInit) (.done (restartCrc ⟨0, 0, 0⟩ s.count))

theorem exec_crcInit (s : State) : exec .crcInit s = .next (afterCrcInit s) := exec_eq .crcInit s

/-- The state after CRC_INIT and CRC_RUN.6 0, count on a written frame. -/
def afterCrcRun (count : Nat) (s : State) : State :=
  conclude (encode (.crcRun 6 0 count)) (.done (restartCrc
    (crcFeed ⟨0, 0, 0⟩ (List.replicate 6 false ++ streamBits s.fbByte 0 count)) (afterCrcInit s).count))

@[simp] theorem afterCrcInit_fb (s : State) : (afterCrcInit s).fb = s.fb := by
  rw [afterCrcInit, conclude_fb, RuleEnd.kept_done, restartCrc_fb, State.count_fb]

@[simp] theorem afterCrcInit_flen (s : State) : (afterCrcInit s).flen = s.flen := by
  rw [afterCrcInit, conclude_flen, RuleEnd.kept_done, restartCrc_flen, State.count_flen]

@[simp] theorem afterCrcInit_gen (s : State) : (afterCrcInit s).gen = ⟨0, 0, 0⟩ := by
  rw [afterCrcInit, conclude_gen, RuleEnd.kept_done, restartCrc_gen]

@[simp] theorem afterCrcRun_fb (count : Nat) (s : State) : (afterCrcRun count s).fb = s.fb := by
  rw [afterCrcRun, conclude_fb, RuleEnd.kept_done, restartCrc_fb, State.count_fb, afterCrcInit_fb]

@[simp] theorem afterCrcRun_flen (count : Nat) (s : State) : (afterCrcRun count s).flen = s.flen := by
  rw [afterCrcRun, conclude_flen, RuleEnd.kept_done, restartCrc_flen, State.count_flen, afterCrcInit_flen]

@[simp] theorem afterCrcRun_gen (count : Nat) (s : State) : (afterCrcRun count s).gen =
    crcFeed ⟨0, 0, 0⟩ (List.replicate 6 false ++ streamBits s.fbByte 0 count) := by
  rw [afterCrcRun, conclude_gen, RuleEnd.kept_done, restartCrc_gen]

theorem exec_crcRun_afterCrcInit {s : State} {len count : Nat} (hlen : len ≤ s.flen.toNat)
    (hw : ∀ a < len, s.fb.read a ≠ none) (hcount : count ≤ 8 * len) :
    exec (.crcRun 6 0 count) (afterCrcInit s) = .next (afterCrcRun count s) := by
  have hin : 0 + count ≤ 8 * (afterCrcInit s).flen.toNat := by
    rw [afterCrcInit_flen]
    omega
  rw [exec_of_done (crcRunRule_of_fits hin), afterCrcRun,
    streamBits_of_written (afterCrcInit_fb s) hw (by omega), afterCrcInit_gen]

/-- Two restarts by two commands leave what one leaves. -/
theorem afterCrcRun_status (count : Nat) (s : State) :
    (afterCrcRun count s).status = (s.status.setCrcCheck none).setErr 0 := by
  change (((s.status.setCrcCheck none).setErr 0).setCrcCheck none).setErr 0 = _
  rw [Status.setErr_setCrcCheck, Status.setCrcCheck_setCrcCheck, Status.setErr_setErr]

/-- After the run, the comparison with the trailer of a written frame. -/
theorem exec_crcCheck_afterCrcRun {s : State} (hlen : 32 ≤ s.flen.toNat) (hw : ∀ a < 32, s.fb.read a ≠ none) :
    exec (.crcCheck 226) (afterCrcRun 226 s) = .next (conclude (encode (.crcCheck 226)) (.done
      (compareCrc (BitVec.ofNat 24 (streamField s.fbByte 226 24)) (afterCrcRun 226 s).count))) := by
  have hd : (afterCrcRun 226 s).gen.dcnt = 0 := by
    rw [afterCrcRun_gen]
    exact (crc_crcFeed rfl (by simp)).1
  have hin : 226 + 24 ≤ 8 * (afterCrcRun 226 s).flen.toNat := by
    rw [afterCrcRun_flen]
    omega
  have htrailer : streamField (afterCrcRun 226 s).fbByte 226 24 = streamField s.fbByte 226 24 :=
    congrArg ofBits (streamBits_of_written (afterCrcRun_fb 226 s) hw (by decide))
  rw [exec_of_done (crcCheckRule_of_fits hd hin), htrailer]

/-- Bits 7 and 6 of a byte are the bits of its top quarter. -/
theorem getLsbD_of_top_bits {b b' : Byte} (h : b.toNat / 64 = b'.toNat / 64) {j : Nat} (hj : 6 ≤ j) :
    b.getLsbD j = b'.getLsbD j := by
  have htop : ∀ c : Byte, c.getLsbD j = (c.toNat / 2 ^ 6).testBit (j - 6) := fun c => by
    rw [Nat.testBit_div_two_pow, Nat.sub_add_cancel hj]
    rfl
  rw [htop, htop]
  exact congrArg (Nat.testBit · (j - 6)) h

/-- The first 226 stream bits are bytes 0 to 27 and the top two bits of byte 28 (42_crc24q R162). -/
theorem streamBits_message_congr {buf buf' : Nat → Byte} (hbytes : ∀ a < 28, buf a = buf' a)
    (htop : (buf 28).toNat / 64 = (buf' 28).toNat / 64) : streamBits buf 0 226 = streamBits buf' 0 226 := by
  rw [streamBits_append buf 0 224 2, streamBits_append buf' 0 224 2,
    streamBits_congr_bytes (len := 28) hbytes (by decide)]
  refine congrArg (streamBits buf' 0 224 ++ ·) (streamBits_congr _ _ _ _ fun k hk => ?_)
  rw [Nat.zero_add, streamBit_in_byte buf 28 (by omega), streamBit_in_byte buf' 28 (by omega),
    getLsbD_of_top_bits htop (by omega)]

end Sys2Proof.Machine

open Sys2Proof Sys2Proof.Machine

/-- Settles O31: CRC_INIT is a command that feeds no bits to a cleared generator. -/
theorem crcInitClearsGenerator : Obligations.CrcInitClearsGenerator := by
  intro s
  have hrule : ruleOf .crcInit s.count = .done (restartCrc ⟨0, 0, 0⟩ s.count) := rfl
  obtain ⟨t, hexec, hgen, hend⟩ := restart_completes hrule
  exact ⟨t, hexec, by rw [hgen], by rw [hgen], by rw [hgen], hend⟩

/-- Settles O35: the eight forms run one rule, each on its own bits. -/
theorem crcFeedFeedsItsBits : Obligations.CrcFeedFeedsItsBits := by
  intro d1 d2 d3 d4 d5 d6 d7 d8 s
  exact ⟨feedEffect_of_rule rfl, feedEffect_of_rule rfl, feedEffect_of_rule rfl, feedEffect_of_rule rfl,
    feedEffect_of_rule rfl, feedEffect_of_rule rfl, feedEffect_of_rule rfl, feedEffect_of_rule rfl⟩

/-- Settles O36: the window is tested before the first pad bit. -/
theorem crcRunFeedsWindow : Obligations.CrcRunFeedsWindow :=
  fun pad off count s => ⟨fun h => feedEffect_of_rule (crcRunRule_of_fits h),
    fun h => exec_refused .truncated (.crcRun pad off count) s (crcRunRule_of_past_end h)⟩

/-- Settles O37: each clause is the branch of the rule that its premises select. -/
theorem crcCheckComparesTrailer : Obligations.CrcCheckComparesTrailer := by
  refine fun off s => ⟨fun hd hin => ?_, fun hd => exec_refused _ (.crcCheck off) s (crcCheckRule_of_unfolded hd),
    fun hd hpast => exec_refused _ (.crcCheck off) s (crcCheckRule_of_past_end hd hpast)⟩
  obtain ⟨hexec, hend⟩ := exec_completes (crcCheckRule_of_fits hd hin) (flagsOnly_compareCrc _ s.count)
    ((changesOnly_count _ s _).1 (changesOnly_compareCrc _ s.count))
  exact ⟨_, hexec, crcCompared_conclude _ off rfl, hend⟩

/-- Settles O38: on a whole frame all three steps are done. -/
theorem crcSbasVerifiesFrame : Obligations.CrcSbasVerifiesFrame := by
  intro s h
  obtain ⟨t, hexec, hgen, hend⟩ := crcSbas_completes h
  exact ⟨t, hexec, hgen, by rw [hgen, dcnt_sbasGen], hend⟩

/-- Settles O39: on a shorter frame the run or the comparison is refused, after a restart of the generator. -/
theorem crcSbasKeepsCompletedSteps : Obligations.CrcSbasKeepsCompletedSteps := by
  intro s h
  have hword : encode .crcSbas = 0x2400000000000000 := by decide
  have hrule := crcSbasRule_of_short h
  generalize (if s.flen.toNat < 29 then (⟨0, 0, 0⟩ : CrcGen) else sbasGen s) = g at hrule ⊢
  have hexec := exec_eq .crcSbas s
  rw [hrule, hword] at hexec
  obtain ⟨hdone, hok⟩ := restartCrc_flags g s.count
  have herror := flagsOnly_conclude_raise 0x2400000000000000 .truncated (restartCrc g s.count)
  exact ⟨_, hexec, rfl, (flag_of_flagsOnly herror (by decide)).trans hdone,
    (flag_of_flagsOnly herror (by decide)).trans hok,
    fails_conclude _ _ _ s _ (restartCrc_books g s.count) (flagsOnly_restartCrc g s.count),
    (changesOnly_conclude _ s _ _).2 ((changesOnly_count _ s _).1 (changesOnly_restartCrc g s.count))⟩

/-- Settles O40: both end with one comparison of one generator; the commands between rewrite ERR and the check flags
only. -/
theorem crcSbasIsItsSequence : Obligations.CrcSbasIsItsSequence := by
  intro s h hw
  have hgen : (afterCrcRun 226 s).gen = sbasGen s := by rw [afterCrcRun_gen, sbasGen_eq]
  refine ⟨_, _, _, _, exec_crcInit s, exec_crcRun_afterCrcInit h hw (by decide), exec_crcCheck_afterCrcRun h hw,
    exec_of_done (crcSbasRule_of_whole h), ?_, ?_, fun p _ => ?_⟩
  · simp only [conclude_done_status, compareCrc_status, State.count_status, State.count_gen, afterCrcRun_status, hgen,
      restartCrc_status, restartCrc_gen, Status.setErr_setCrcCheck, Status.setErr_noteMismatch, Status.setErr_setErr]
  · simp [afterCrcRun, afterCrcInit]
  · cases p <;> simp [keeps, afterCrcRun, afterCrcInit, sbasGen_eq]

/-- Settles O43: a correct trailer is the generator's own CRC, whose bits bring it to 0. -/
theorem correctSbasFrameHasZeroResidue : Obligations.CorrectSbasFrameHasZeroResidue := by
  intro s t h hw hexec hok
  obtain ⟨t', hexec', hgen, ⟨hrx, -, hcheck, -⟩, -⟩ := crcSbas_completes h
  obtain rfl : t = t' := by
    rw [hexec] at hexec'
    exact Host.Outcome.next.inj hexec'
  have hcrc : t.crcRx = (sbasGen s).crc := by
    rw [← hgen]
    exact of_decide_eq_true (hcheck.symm.trans hok)
  have htrailer : streamBits s.fbByte 226 24 = (List.range 24).map fun k => (sbasGen s).crc.getLsbD (23 - k) := by
    refine List.map_congr_left fun k hk => ?_
    rw [List.mem_range] at hk
    rw [← hcrc, hrx _ (by omega), show 23 - (23 - k) = k by omega]
  have hrun : (afterCrcRun 250 s).gen = crcFeed (sbasGen s) (streamBits s.fbByte 226 24) := by
    rw [afterCrcRun_gen, sbasGen_eq, ← crcFeed_append, List.append_assoc, ← streamBits_append _ 0 226 24]
  refine ⟨_, _, exec_crcInit s, exec_crcRun_afterCrcInit h hw (by decide), ?_, ?_⟩
  · rw [hrun, htrailer]
    exact crc_crcFeed_own_bits (dcnt_sbasGen s)
  · rw [hrun]
    exact (crc_crcFeed (dcnt_sbasGen s) (by simp)).1

/-- Settles O44: both runs feed the same bits to a cleared generator. -/
theorem crcDependsOnMessageBitsOnly : Obligations.CrcDependsOnMessageBitsOnly := by
  intro s s' h h' hbytes htop hlast hlast'
  have hw : ∀ a < 29, s.fb.read a ≠ none := fun a ha => by
    rcases Nat.lt_succ_iff_lt_or_eq.1 ha with hlt | rfl
    · exact (hbytes a hlt).1
    · exact hlast
  have hw' : ∀ a < 29, s'.fb.read a ≠ none := fun a ha => by
    rcases Nat.lt_succ_iff_lt_or_eq.1 ha with hlt | rfl
    · rw [← (hbytes a hlt).2]
      exact (hbytes a hlt).1
    · exact hlast'
  obtain ⟨b, hb⟩ := Option.ne_none_iff_exists'.1 hlast
  obtain ⟨b', hb'⟩ := Option.ne_none_iff_exists'.1 hlast'
  have hbits : streamBits s.fbByte 0 226 = streamBits s'.fbByte 0 226 := by
    refine streamBits_message_congr (fun a ha => fbByte_of_written (hbytes a ha).2 (hw' a (by omega))) ?_
    rw [State.fbByte_of_read s 28 b hb, State.fbByte_of_read s' 28 b' hb', htop b b' hb hb']
  have herr : ∀ u, (afterCrcRun 226 u).status.err = 0 := fun u => Status.err_setErr _ 0
  refine ⟨_, _, _, _, exec_crcInit s, exec_crcRun_afterCrcInit h hw (by decide), exec_crcInit s',
    exec_crcRun_afterCrcInit h' hw' (by decide), ?_, ?_, herr s, herr s'⟩
  · rw [afterCrcRun_gen, afterCrcRun_gen, hbits]
  · rw [afterCrcRun_gen]
    exact (crc_crcFeed rfl (by simp)).1

end

section
/-!
The Fletcher-8 commands (43_fletcher8 R180 to R188): a command that restarts the check with new sums, the comparison
with a trailer, FL_UBX on whole and on short frames, and the sums of a region in closed form.
-/

namespace Sys2Proof.Machine

/-! ### Commands that write the sums -/

/-- What new sums leave in FL_DONE and FL_OK. -/
theorem restartFl_flags (c : FlSums) (s : State) :
    (restartFl c s).status.flag .flDone = false ∧ (restartFl c s).status.flag .flOk = false :=
  ⟨Status.getLsbD_setFlCheck _ _ _, Status.getLsbD_setFlCheck _ _ _⟩

/-- A command whose rule restarts the check with new sums completes. -/
theorem restartFl_completes {i : Instr} {c : FlSums} {s : State}
    (h : ruleOf i s.count = .done (restartFl c s.count)) :
    ∃ t, exec i s = .next t ∧ t.sums = c ∧ t.status.flag .flDone = false ∧ t.status.flag .flOk = false ∧
      succeeds [.flDone, .flOk] s t ∧ changesOnly [.sums] s t := by
  obtain ⟨hexec, hend⟩ := exec_completes h (flagsOnly_restartFl c s.count)
    ((changesOnly_count _ s _).1 (changesOnly_restartFl c s.count))
  have hflag := Status.flag_setErr (restartFl c s.count).status 0
  obtain ⟨hdone, hok⟩ := restartFl_flags c s.count
  exact ⟨_, hexec, rfl, (hflag .flDone).trans hdone, (hflag .flOk).trans hok, hend⟩

theorem flRunRule_of_fits {off count : Nat} {s : State} (h : off + count ≤ s.flen.toNat) :
    ruleOf (.flRun off count) s.count =
      .done (restartFl (flFeed s.sums (memRead s.fbByte off count)) s.count) :=
  (flRunRule_eq off count s.count).trans (if_pos h)

theorem flRunRule_of_past_end {off count : Nat} {s : State} (h : s.flen.toNat < off + count) :
    ruleOf (.flRun off count) s.count = .raise .truncated s.count :=
  (flRunRule_eq off count s.count).trans (if_neg (Nat.not_le.2 h))

/-! ### The comparison -/

/-- The state after the comparison of the sums with the trailer at `off` (43_fletcher8 R185). -/
def compareFl (off : Nat) (s : State) : State :=
  (s.setFlRx (BitVec.ofNat 16 (loadLE s.fbByte off 2))).setStatus (flOutcome (s.fbByte off) (s.fbByte (off + 1)) s)

theorem flCheckRule_of_fits {off : Nat} {s : State} (h : off + 2 ≤ s.flen.toNat) :
    flCheckRule off s = .done (compareFl off s) :=
  (flCheckRule_eq off s).trans (if_pos h)

theorem flCheckRule_of_past_end {off : Nat} {s : State} (h : s.flen.toNat < off + 2) :
    flCheckRule off s = .raise .truncated s :=
  (flCheckRule_eq off s).trans (if_neg (Nat.not_le.2 h))

theorem changesOnly_compareFl (off : Nat) (s : State) : changesOnly [.flRx] s (compareFl off s) :=
  changesOnly_setFlRx_setStatus _ _ s

theorem flagsOnly_compareFl (off : Nat) (s : State) :
    flagsOnly [.flDone, .flOk, .mismatchS] s (compareFl off s) :=
  flagsOnly_setFlRx_flOutcome _ _ _ s

@[simp] theorem compareFl_sums (off : Nat) (s : State) : (compareFl off s).sums = s.sums := rfl

/-- FL_RX is the two trailer bytes, the first the lower one. -/
theorem toNat_compareFl_flRx (off : Nat) (s : State) :
    (compareFl off s).flRx.toNat = (s.fbByte off).toNat + 2 ^ 8 * (s.fbByte (off + 1)).toNat := by
  have ha := (s.fbByte off).isLt
  have hb := (s.fbByte (off + 1)).isLt
  change (BitVec.ofNat 16 (loadLE s.fbByte off 2)).toNat = _
  rw [BitVec.toNat_ofNat, loadLE_two]
  omega

/-- What a comparison leaves in FL_DONE, FL_OK and MISMATCH_S. -/
theorem Status.flags_of_flComparison (st : Status) (ok : Bool) :
    ((st.setFlCheck (some ok)).noteMismatch ok).flag .flDone = true ∧
      ((st.setFlCheck (some ok)).noteMismatch ok).flag .flOk = ok ∧
      ((st.setFlCheck (some ok)).noteMismatch ok).flag .mismatchS = (st.flag .mismatchS || !ok) := by
  have hbit := Status.getLsbD_noteMismatch (st.setFlCheck (some ok)) ok
  have hkept := Status.getLsbD_setFlCheck st (some ok)
  refine ⟨(hbit 10).trans (hkept 10), (hbit 11).trans (hkept 11), ?_⟩
  rw [Bool.or_comm]
  exact (hbit 7).trans (congrArg (!ok || ·) (hkept 7))

theorem compareFl_flags (off : Nat) (s : State) :
    (compareFl off s).status.flag .flDone = true ∧
      (compareFl off s).status.flag .flOk = decide (s.fbByte off = s.sums.ckA ∧ s.fbByte (off + 1) = s.sums.ckB) ∧
      (compareFl off s).status.flag .mismatchS =
        (s.status.flag .mismatchS || !(compareFl off s).status.flag .flOk) := by
  obtain ⟨hdone, hok, hmismatch⟩ := Status.flags_of_flComparison s.status
    (s.fbByte off == s.sums.ckA && s.fbByte (off + 1) == s.sums.ckB)
  exact ⟨hdone, hok.trans (Bool.decide_and _ _).symm, hmismatch.trans (congrArg (_ || !·) hok.symm)⟩

/-- Two pairs of bytes are equal exactly if the numbers they write are. -/
theorem bytePair_eq_iff (a b c d : Byte) : a = c ∧ b = d ↔ a.toNat + 2 ^ 8 * b.toNat = c.toNat + 2 ^ 8 * d.toNat := by
  have ha := a.isLt
  have hc := c.isLt
  rw [← BitVec.toNat_inj, ← BitVec.toNat_inj]
  omega

/-- A comparison in a state with the bytes and the MISMATCH_S of s records the comparison with the trailer of s. -/
theorem flCompared_conclude (w : Word) (off : Nat) {s u : State} (hbytes : u.fbByte = s.fbByte)
    (hm : u.status.flag .mismatchS = s.status.flag .mismatchS) :
    flCompared off s (conclude w (.done (compareFl off u))) := by
  obtain ⟨hdone, hok, hmismatch⟩ := compareFl_flags off u
  have hrx := toNat_compareFl_flRx off u
  rw [hbytes] at hok hrx
  rw [hm] at hmismatch
  simp only [flCompared, conclude_done_status, Status.flag_setErr, conclude_flRx, conclude_sums, RuleEnd.kept_done,
    compareFl_sums, toNat_readReg_sums]
  refine ⟨hrx, hdone, hok, ?_, hmismatch⟩
  rw [hok, hrx]
  exact decide_eq_decide.2 (bytePair_eq_iff _ _ _ _)

/-! ### FL_UBX -/

theorem ubxLength_eq (s : State) : ubxLength s = payloadLength s := loadLE_two s.fbByte 4

theorem ubxSums_eq (s : State) : ubxSums s = flFeed ⟨0, 0⟩ (memRead s.fbByte 2 (4 + ubxLength s)) := by
  rw [ubxLength_eq]
  rfl

theorem flUbxRule_of_no_length {s : State} (h : s.flen.toNat < 6) :
    ruleOf .flUbx s.count = .raise .truncated s.count :=
  (flUbxRule_eq (ubxSums s) s.count (ubxSums_eq s)).trans (if_pos h)

theorem flUbxRule_of_length {s : State} (h : 6 ≤ s.flen.toNat) :
    ruleOf .flUbx s.count =
      if s.flen.toNat < 6 + payloadLength s then .raise .truncated (restartFl ⟨0, 0⟩ s.count)
      else flCheckRule (6 + payloadLength s) (restartFl (ubxSums s) s.count) := by
  rw [← ubxLength_eq]
  exact (flUbxRule_eq (ubxSums s) s.count (ubxSums_eq s)).trans (if_neg (Nat.not_lt.2 h))

theorem flUbxRule_of_whole {s : State} (h6 : 6 ≤ s.flen.toNat) (h : 8 + payloadLength s ≤ s.flen.toNat) :
    ruleOf .flUbx s.count = .done (compareFl (6 + payloadLength s) (restartFl (ubxSums s) s.count)) := by
  have htrailer : 6 + payloadLength s + 2 ≤ (restartFl (ubxSums s) s.count).flen.toNat := by
    rw [restartFl_flen, State.count_flen]
    omega
  rw [flUbxRule_of_length h6, if_neg (by omega), flCheckRule_of_fits htrailer]

theorem flUbxRule_of_short {s : State} (h6 : 6 ≤ s.flen.toNat) (h : s.flen.toNat < 8 + payloadLength s) :
    ruleOf .flUbx s.count = .raise .truncated
      (restartFl (if s.flen.toNat < 6 + payloadLength s then ⟨0, 0⟩ else ubxSums s) s.count) := by
  have htrailer : (restartFl (ubxSums s) s.count).flen.toNat < 6 + payloadLength s + 2 := by
    rw [restartFl_flen, State.count_flen]
    omega
  rw [flUbxRule_of_length h6, flCheckRule_of_past_end htrailer]
  split <;> rfl

/-! ### The sums in closed form -/

/-- The sum of (m - i)·b over the bytes b at index i of m. -/
def weightedSum (l : List Byte) : Nat :=
  ((List.range l.length).map fun i => (l.length - i) * (l.getD i 0).toNat).sum

/-- A byte in front has the weight of all the bytes, and shifts the others without changing their weights. -/
theorem weightedSum_cons (b : Byte) (l : List Byte) :
    weightedSum (b :: l) = (l.length + 1) * b.toNat + weightedSum l := by
  simp [weightedSum, List.range_succ_eq_map, Function.comp_def]

/-- CK_B after a region: the first sums once and CK_A once per byte, and each byte as often as it stays in CK_A
(43_fletcher8 R188). -/
theorem flFeed_ckB (l : List Byte) (c : FlSums) :
    (flFeed c l).ckB.toNat ≡ c.ckB.toNat + l.length * c.ckA.toNat + weightedSum l [MOD 256] := by
  induction l generalizing c with
  | nil => simp [weightedSum, Nat.ModEq.refl]
  | cons b l ih =>
    have hA : (flByte c b).ckA.toNat ≡ c.ckA.toNat + b.toNat [MOD 256] := by
      rw [flByte_ckA]
      exact Nat.mod_modEq _ _
    have hB : (flByte c b).ckB.toNat ≡ c.ckB.toNat + (c.ckA.toNat + b.toNat) [MOD 256] := by
      rw [flByte_ckB]
      exact (Nat.mod_modEq _ _).trans (hA.add_left _)
    rw [flFeed_cons, weightedSum_cons, List.length_cons]
    calc (flFeed (flByte c b) l).ckB.toNat
        ≡ (flByte c b).ckB.toNat + l.length * (flByte c b).ckA.toNat + weightedSum l [MOD 256] := ih _
      _ ≡ c.ckB.toNat + (c.ckA.toNat + b.toNat) + l.length * (c.ckA.toNat + b.toNat) + weightedSum l [MOD 256] :=
        (hB.add (hA.mul_left _)).add_right _
      _ = c.ckB.toNat + (l.length + 1) * c.ckA.toNat + ((l.length + 1) * b.toNat + weightedSum l) := by ring

/-- CK_A is a sum of all the bytes, so their order does not matter (43_fletcher8 R188). -/
theorem flFeed_ckA_of_perm (c : FlSums) {l l' : List Byte} (h : l.Perm l') : (flFeed c l').ckA = (flFeed c l).ckA := by
  apply BitVec.eq_of_toNat_eq
  rw [flFeed_ckA, flFeed_ckA, (h.map BitVec.toNat).sum_eq]

end Sys2Proof.Machine

open Sys2Proof Sys2Proof.Machine

/-- Settles O45: both commands restart the check, FL_BYTE with the sums after its one byte. -/
theorem flInitAndFlByteUpdateSums : Obligations.FlInitAndFlByteUpdateSums := by
  intro b s
  have hinit : ruleOf .flInit s.count = .done (restartFl ⟨0, 0⟩ s.count) := rfl
  have hbyte : ruleOf (.flByte b) s.count = .done (restartFl (flByte s.sums b) s.count) := rfl
  obtain ⟨t, hexec, hsums, hend⟩ := restartFl_completes hinit
  obtain ⟨t', hexec', hsums', hend'⟩ := restartFl_completes hbyte
  exact ⟨⟨t, hexec, by rw [hsums], by rw [hsums], hend⟩,
    ⟨t', hexec', by rw [hsums', flByte_ckA], by rw [hsums', flByte_ckB], hend'⟩⟩

/-- Settles O46: the region is tested before the first byte is fed. -/
theorem flRunFeedsRegion : Obligations.FlRunFeedsRegion :=
  fun off count s => ⟨fun h => restartFl_completes (flRunRule_of_fits h),
    fun h => exec_refused .truncated (.flRun off count) s (flRunRule_of_past_end h)⟩

/-- Settles O47: each clause is the branch of the rule that its premise selects. -/
theorem flCheckComparesTrailer : Obligations.FlCheckComparesTrailer := by
  refine fun off s => ⟨fun h => ?_, fun h => exec_refused _ (.flCheck off) s (flCheckRule_of_past_end h)⟩
  have hrule : ruleOf (.flCheck off) s.count = .done (compareFl off s.count) := flCheckRule_of_fits h
  obtain ⟨hexec, hend⟩ := exec_completes hrule (flagsOnly_compareFl off s.count)
    ((changesOnly_count _ s _).1 (changesOnly_compareFl off s.count))
  exact ⟨_, hexec, flCompared_conclude _ off (State.fbByte_count s) rfl, hend⟩

/-- Settles O48: on a whole frame the comparison follows the sums of the region. -/
theorem flUbxVerifiesFrame : Obligations.FlUbxVerifiesFrame := by
  intro s h6 h
  have hrun : flagsOnly [.flDone, .flOk] s (restartFl (ubxSums s) s.count) := flagsOnly_restartFl _ s.count
  obtain ⟨hexec, hend⟩ := exec_completes (flUbxRule_of_whole h6 h)
    (flagsOnly_trans (hs := [.flDone, .flOk, .mismatchS]) hrun (flagsOnly_compareFl _ _) (by decide) (by decide))
    ((changesOnly_count _ s _).1 (changesOnly_trans (changesOnly_restartFl _ _) (changesOnly_compareFl _ _)))
  exact ⟨_, hexec, rfl, flCompared_conclude _ _ rfl (flag_of_flagsOnly hrun (by decide)), hend⟩

/-- Settles O49: without a length field nothing is done; with one, the run or the comparison is refused after a restart
of the sums. -/
theorem flUbxKeepsCompletedSteps : Obligations.FlUbxKeepsCompletedSteps := by
  have hword : encode .flUbx = 0x3400000000000000 := by decide
  intro s
  refine ⟨fun h => hword ▸ exec_refused .truncated .flUbx s (flUbxRule_of_no_length h), fun h6 h => ?_⟩
  have hrule := flUbxRule_of_short h6 h
  generalize (if s.flen.toNat < 6 + payloadLength s then (⟨0, 0⟩ : FlSums) else ubxSums s) = c at hrule ⊢
  have hexec := exec_eq .flUbx s
  rw [hrule, hword] at hexec
  obtain ⟨hdone, hok⟩ := restartFl_flags c s.count
  have herror := flagsOnly_conclude_raise 0x3400000000000000 .truncated (restartFl c s.count)
  exact ⟨_, hexec, rfl, (flag_of_flagsOnly herror (by decide)).trans hdone,
    (flag_of_flagsOnly herror (by decide)).trans hok,
    fails_conclude _ _ _ s _ (restartFl_books c s.count) (flagsOnly_restartFl c s.count),
    (changesOnly_conclude _ s _ _).2 ((changesOnly_count _ s _).1 (changesOnly_restartFl c s.count))⟩

/-- Settles O50: by induction on the bytes, from any sums, and here from zero. -/
theorem fletcherSumsOfRegion : Obligations.FletcherSumsOfRegion := by
  intro bytes
  refine ⟨?_, ?_, fun bytes' h => flFeed_ckA_of_perm ⟨0, 0⟩ h⟩
  · exact (flFeed_ckA bytes ⟨0, 0⟩).trans (by simp)
  · have hB : (flFeed ⟨0, 0⟩ bytes).ckB.toNat ≡ weightedSum bytes [MOD 256] := by
      simpa using flFeed_ckB bytes ⟨0, 0⟩
    exact (Nat.mod_eq_of_lt (BitVec.isLt _)).symm.trans hB

end

section
/-!
The split-field reassembly commands (44_reassembly R201 to R206): what each append completes with or refuses, RA_GET,
and an appended chunk read back from RB.
-/

namespace Sys2Proof.Machine

/-! ### Commands that write the accumulator -/

/-- A command whose rule writes the accumulator completes, and has written nothing else. -/
theorem setAsm_completes {i : Instr} {u : Reasm} {s : State} (h : ruleOf i s.count = .done (s.count.setAsm u)) :
    ∃ t, exec i s = .next t ∧ t.asm = u ∧ succeeds [] s t ∧ changesOnly [.asm] s t := by
  obtain ⟨hexec, hend⟩ := exec_completes h (flagsOnly_of_status_eq [] rfl)
    ((changesOnly_count _ s _).1 (changesOnly_setAsm s.count u))
  exact ⟨_, hexec, rfl, hend⟩

/-- A command whose rule appends a chunk completes with the chunk below the bits already held (44_reassembly R202). -/
theorem append_completes {i : Instr} {raw w : Nat} {s : State}
    (h : ruleOf i s.count = .done (s.count.setAsm (appendChunk s.asm raw w))) (hraw : raw < 2 ^ w)
    (hcap : s.asm.rl.toNat + w ≤ 128) :
    ∃ t, exec i s = .next t ∧
      (∀ j < 128, t.asm.ra.getLsbD j = if j < w then raw.testBit j else s.asm.ra.getLsbD (j - w)) ∧
      t.asm.rl.toNat = s.asm.rl.toNat + w ∧ succeeds [] s t ∧ changesOnly [.asm] s t := by
  obtain ⟨t, hexec, hasm, hend⟩ := setAsm_completes h
  refine ⟨t, hexec, fun j hj => ?_, ?_, hend⟩
  · rw [hasm, getLsbD_appendChunk s.asm raw w j hraw hj]
  · rw [hasm, rl_appendChunk s.asm raw w hcap]

theorem chunkFits_eq_false_iff (u : Reasm) (w : Nat) :
    chunkFits u w = false ↔ w = 0 ∨ 64 < w ∨ 128 < u.rl.toNat + w := by
  rw [← Bool.not_eq_true, chunkFits_iff]
  omega

/-! ### RA_APP -/

theorem ruleOf_appendAt (src : Source) (place : FieldAt) (w : Nat) :
    ruleOf (appendAt src place w) = raAppRule src place w := by
  cases place <;> rfl

section RaApp

variable {src : Source} {place : FieldAt} {w raw : Nat} {e : Err} {s : State}

/-- The width and the capacity are tested before the field is looked at (44_reassembly R203). -/
theorem raAppRule_of_no_room (h : chunkFits s.asm w = false) :
    raAppRule src place w s = .raise .invalidFieldSpec s := by
  simp only [raAppRule, h, Bool.not_false, if_true]

theorem raAppRule_of_error (hfit : chunkFits s.asm w = true) (h : fieldRead s src place w = .error e) :
    raAppRule src place w s = .raise e s := by
  simp [raAppRule, hfit, h]

theorem raAppRule_of_ok (hfit : chunkFits s.asm w = true) (h : fieldRead s src place w = .ok raw) :
    raAppRule src place w s = .done (s.setAsm (appendChunk s.asm raw w)) := by
  simp [raAppRule, hfit, h]

/-- RA_APP of a field that is read and has room runs the append of that field. -/
theorem appendAt_appends (h : fieldRead s src place w = .ok raw) (hcap : s.asm.rl.toNat + w ≤ 128) :
    ruleOf (appendAt src place w) s.count = .done (s.count.setAsm (appendChunk s.asm raw w)) := by
  rw [ruleOf_appendAt]
  exact raAppRule_of_ok ((chunkFits_iff s.asm w).2 ⟨width_of_fieldRead h, hcap⟩) (by rwa [fieldRead_count])

end RaApp

/-! ### RA_APPR -/

theorem raApprRule_of_valid {w : Nat} {s : State} (hfit : chunkFits s.asm w = true)
    (h : s.status.flag .resValid = true) :
    raApprRule w s = .done (s.setAsm (appendChunk s.asm (s.res.toNat % 2 ^ w) w)) := by
  simp [raApprRule, hfit, h]

/-- The refusals of RA_APPR are one error, so their order does not show (44_reassembly R204). -/
theorem raApprRule_of_refused {w : Nat} {s : State}
    (h : chunkFits s.asm w = false ∨ s.status.flag .resValid = false) :
    raApprRule w s = .raise .invalidFieldSpec s := by
  unfold raApprRule
  split
  next => rfl
  next hfit =>
    have hvalid : s.status.flag .resValid = false := h.resolve_left (by simpa using hfit)
    rw [hvalid]
    rfl

/-! ### RA_GET -/

/-- A command whose rule writes a result completes with it and with its two flags (10_state R29, R30). -/
theorem writeResult_completes {i : Instr} {sg : Signedness} {n raw : Nat} {s : State}
    (h : ruleOf i s.count = .done (writeResult sg n raw s.count)) :
    ∃ t, exec i s = .next t ∧ t.res = widen sg n raw ∧
      t.status.flag .resValid = true ∧ t.status.flag .resSigned = sg.isSigned ∧
      succeeds [.resValid, .resSigned] s t ∧ changesOnly [.res] s t := by
  obtain ⟨hexec, hend⟩ := exec_completes h (flagsOnly_writeResult sg n raw s.count)
    ((changesOnly_count _ s _).1 (changesOnly_writeResult sg n raw s.count))
  have hflag := Status.flag_setErr (s.status.setResult sg.isSigned) 0
  exact ⟨_, hexec, rfl, (hflag .resValid).trans (Status.getLsbD_setResult _ _ _),
    (hflag .resSigned).trans (Status.getLsbD_setResult _ _ _), hend⟩

theorem raGetRule_of_good_length {s : State} (hpos : 1 ≤ s.asm.rl.toNat) (hle : s.asm.rl.toNat ≤ 64)
    (sg : Signedness) : raGetRule sg s = .done (writeResult sg s.asm.rl.toNat s.asm.ra.toNat s) := by
  simp [raGetRule, (widthOK_iff _).2 ⟨hpos, hle⟩]

theorem raGetRule_of_bad_length {s : State} (h : s.asm.rl.toNat = 0 ∨ 64 < s.asm.rl.toNat) (sg : Signedness) :
    raGetRule sg s = .raise .invalidFieldSpec s := by
  have hw : widthOK s.asm.rl.toNat = false := by
    rw [← Bool.not_eq_true, widthOK_iff]
    omega
  simp [raGetRule, hw]

/-- RA_GET's word asks for RES (60_exceptions R224). -/
theorem producesRes_raGet (sg : Signedness) : producesRes (encode (.raGet sg)) = true :=
  (producesRes_iff _).2 (.inr (opField_encode _ rfl))

/-! ### The appended chunk in RB -/

/-- RB is left-aligned, so a chunk stands in it at the stream bit that was the length before the append (20_memory R63,
44_reassembly R206). -/
theorem streamField_appendChunk (u : Reasm) {raw w : Nat} (hraw : raw < 2 ^ w) (hcap : u.rl.toNat + w ≤ 128) :
    streamField (rbByte (appendChunk u raw w)) u.rl.toNat w = raw := by
  have hrl := rl_appendChunk u raw w hcap
  apply Nat.eq_of_testBit_eq
  intro j
  rw [testBit_streamField]
  by_cases hj : j < w
  · have hbit := getLsbD_appendChunk u raw w j hraw (by omega)
    rw [if_pos hj, streamBit_rbByte _ (by omega), getLsbD_rbView _ (by omega) (by omega), if_pos (by omega), hrl,
      show u.rl.toNat + w - 1 - (u.rl.toNat + (w - 1 - j)) = j by omega, hbit, if_pos hj]
  · have hpow : 2 ^ w ≤ 2 ^ j := Nat.pow_le_pow_right (by decide) (Nat.not_lt.1 hj)
    rw [if_neg hj, Nat.testBit_lt_two_pow (Nat.lt_of_lt_of_le hraw hpow)]

end Sys2Proof.Machine

open Sys2Proof Sys2Proof.Machine

/-- Settles O51: RA_CLR's rule writes the empty accumulator. -/
theorem raClrEmptiesAccumulator : Obligations.RaClrEmptiesAccumulator := by
  intro s
  have hrule : ruleOf .raClr s.count = .done (s.count.setAsm ⟨0, 0⟩) := rfl
  obtain ⟨t, hexec, hasm, hend⟩ := setAsm_completes hrule
  exact ⟨t, hexec, by rw [hasm], by rw [hasm], hend⟩

/-- Settles O52: the field is read from the state before the append, and fits its width. -/
theorem raAppAppendsChunk : Obligations.RaAppAppendsChunk := by
  intro src place w raw s h hcap
  exact append_completes (appendAt_appends h hcap) (fieldRead_lt s src place w raw h) hcap

/-- Settles O54: the rule raises each error in the state it was given. -/
theorem raAppErrorsInOrder : Obligations.RaAppErrorsInOrder := by
  intro src place w s
  refine ⟨fun hbad => exec_refused _ _ s ?_, fun e hpos hle hcap h => exec_refused _ _ s ?_⟩
  · rw [ruleOf_appendAt]
    exact raAppRule_of_no_room ((chunkFits_eq_false_iff s.asm w).2 hbad)
  · rw [ruleOf_appendAt]
    exact raAppRule_of_error ((chunkFits_iff s.asm w).2 ⟨⟨hpos, hle⟩, hcap⟩) (by rwa [fieldRead_count])

/-- Settles O55: the chunk is RES modulo 2^W, whose bits below W are RES's own. -/
theorem raApprAppendsResult : Obligations.RaApprAppendsResult := by
  intro w s
  refine ⟨fun hpos hle hcap hvalid => ?_, fun hbad => exec_refused _ (.raAppr w) s (raApprRule_of_refused ?_)⟩
  · have hrule := raApprRule_of_valid (s := s.count) ((chunkFits_iff s.asm w).2 ⟨⟨hpos, hle⟩, hcap⟩) hvalid
    obtain ⟨t, hexec, hbits, hend⟩ := append_completes (i := .raAppr w) hrule (Nat.mod_lt _ (Nat.two_pow_pos w)) hcap
    refine ⟨t, hexec, fun j hj => ?_, hend⟩
    rw [hbits j hj]
    by_cases h : j < w
    · rw [if_pos h, if_pos h, Nat.testBit_mod_two_pow, decide_eq_true h, Bool.true_and]
      rfl
    · rw [if_neg h, if_neg h]
  · rw [chunkFits_eq_false_iff, or_assoc, or_assoc]
    exact hbad

/-- Settles O56: the RL bits held are a field of width RL, because RA has no bit at or above RL. -/
theorem raGetReadsAccumulator : Obligations.RaGetReadsAccumulator := by
  intro sg s
  refine ⟨fun hpos hle hwf => ?_, fun hbad => ?_⟩
  · obtain ⟨-, hra⟩ := hwf
    obtain ⟨t, hexec, hres, hend⟩ :=
      writeResult_completes (i := .raGet sg) (raGetRule_of_good_length (s := s.count) hpos hle sg)
    refine ⟨t, hexec, fun j hj => ?_, hend⟩
    rw [hres]
    exact getLsbD_widen sg _ _ j hpos hra hj
  · obtain ⟨t, hexec, hfails, hparts⟩ :=
      exec_refused .invalidFieldSpec (.raGet sg) s (raGetRule_of_bad_length (s := s.count) hbad sg)
    have ⟨_, _, _, _, hvalid, _⟩ := hfails
    exact ⟨t, hexec, hfails, hparts, hvalid (producesRes_raGet sg)⟩

/-- Settles O58: both EXTs read the chunk, one where it was appended and one where it came from. -/
theorem appendedChunkReadsBack : Obligations.AppendedChunkReadsBack := by
  intro src off w s _ hpos hle hcap hin
  have hread := fieldRead_be_of_fits hpos hle hin
  obtain ⟨t, hexect, hasm, -⟩ := setAsm_completes (appendAt_appends hread hcap)
  have hback : fieldRead t .rb (.be s.asm.rl.toNat) w = .ok (streamField (s.buffer src) off w) := by
    rw [fieldRead_be_of_fits (src := .rb) hpos hle hcap]
    simp only [State.buffer, hasm, streamField_appendChunk s.asm (streamField_lt _ off w) hcap]
  obtain ⟨u, hexecu, hresu, -, -, ⟨-, herru, -⟩, -⟩ := ext_completes .unsigned hback
  obtain ⟨v, hexecv, hresv, -, -, ⟨-, herrv, -⟩, -⟩ := ext_completes .unsigned hread
  exact ⟨t, u, v, hexect, hexecu, hexecv, herru, herrv, hresu.trans hresv.symm⟩

end

section
/-!
The error model (60_exceptions): every operation of the host is answered, a word that is no command and a command that
is refused leave the error's record only, and what earlier errors recorded changes no command.
-/

namespace Sys2Proof.Machine

/-! ### Every step has a next state, and what an error leaves behind -/

/-- By the host's oldest operation, if there is one (60_exceptions R232). -/
theorem step_answers (s : State) : ∃ t, step s = .next t := by
  match hport : s.port with
  | [] => exact ⟨_, step_of_port_nil hport⟩
  | .writeCmd w :: rest => exact ⟨_, step_writeCmd hport⟩
  | .readReg n :: rest => exact ⟨_, step_readReg hport⟩
  | .reset :: rest => exact ⟨_, step_reset hport⟩

/-- ERR tells an error from a success: it is NONE after a rule that is done (60_exceptions R224). -/
theorem raises_of_err_ne_zero {w : Word} {r : RuleEnd} (h : (conclude w r).status.err ≠ 0) :
    ∃ e t, r = .raise e t := by
  cases r with
  | done t => exact absurd (t.status.err_setErr 0) h
  | raise e t => exact ⟨e, t, rfl⟩

/-! ### STATUS apart from what errors write -/

/-- The two STATUS words share every bit from MISMATCH_S up, so all but ERR, the sticky bits of the errors and the
reserved bit between them (10_state R22). -/
def SameAboveErrors (st st' : Status) : Prop := ∀ j, 7 ≤ j → st'.getLsbD j = st.getLsbD j

section Operations

variable {st st' : Status} (h : SameAboveErrors st st')
include h

theorem SameAboveErrors.flag_resValid : st'.flag .resValid = st.flag .resValid := h 12 (by decide)

theorem SameAboveErrors.clearSticky : SameAboveErrors st.clearSticky st'.clearSticky := fun j hj => by
  rw [Status.getLsbD_clearSticky, Status.getLsbD_clearSticky, h j hj]

theorem SameAboveErrors.setCrcCheck (r : Option Bool) : SameAboveErrors (st.setCrcCheck r) (st'.setCrcCheck r) :=
  fun j hj => by rw [Status.getLsbD_setCrcCheck, Status.getLsbD_setCrcCheck, h j hj]

theorem SameAboveErrors.setFlCheck (r : Option Bool) : SameAboveErrors (st.setFlCheck r) (st'.setFlCheck r) :=
  fun j hj => by rw [Status.getLsbD_setFlCheck, Status.getLsbD_setFlCheck, h j hj]

theorem SameAboveErrors.noteMismatch (ok : Bool) : SameAboveErrors (st.noteMismatch ok) (st'.noteMismatch ok) :=
  fun j hj => by rw [Status.getLsbD_noteMismatch, Status.getLsbD_noteMismatch, h 7 (by decide), h j hj]

theorem SameAboveErrors.setResult (sg : Bool) : SameAboveErrors (st.setResult sg) (st'.setResult sg) :=
  fun j hj => by rw [Status.getLsbD_setResult, Status.getLsbD_setResult, h j hj]

theorem SameAboveErrors.setErr (code : BitVec 3) : SameAboveErrors (st.setErr code) (st'.setErr code) :=
  fun j hj => by rw [Status.getLsbD_setErr, Status.getLsbD_setErr, h j hj]

theorem SameAboveErrors.noteError (e : Err) (w : Word) : SameAboveErrors (st.noteError e w) (st'.noteError e w) :=
  fun j hj => by rw [Status.getLsbD_noteError, Status.getLsbD_noteError, h j hj]

end Operations

/-! ### Rules that do not look at recorded errors -/

/-- The state with another record of earlier errors. -/
abbrev State.withErrors (s : State) (st : Status) (c : Word) : State := (s.setStatus st).setErrCmd c

/-- A rule's end with another record of earlier errors in its state. -/
def RuleEnd.withErrors (st : Status) (c : Word) : RuleEnd → RuleEnd
  | .done s => .done (s.withErrors st c)
  | .raise e s => .raise e (s.withErrors st c)

/-- The second end is the first with another record of earlier errors, ERRCMD being c. -/
def SameButErrors (c : Word) (r r' : RuleEnd) : Prop :=
  ∃ st, SameAboveErrors r.kept.status st ∧ r' = r.withErrors st c

/-- The rule ends the same whatever record of earlier errors it starts from. -/
def IgnoresErrors (f : State → RuleEnd) : Prop :=
  ∀ s st c, SameAboveErrors s.status st → SameButErrors c (f s) (f (s.withErrors st c))

theorem SameButErrors.andThen {c : Word} {r r' : RuleEnd} {g : State → RuleEnd} (h : SameButErrors c r r')
    (hg : IgnoresErrors g) : SameButErrors c (r.andThen g) (r'.andThen g) := by
  obtain ⟨st, hst, rfl⟩ := h
  cases r with
  | done t => exact hg t st c hst
  | raise e t => exact ⟨st, hst, rfl⟩

theorem fieldRead_withErrors (s : State) (st : Status) (c : Word) (src : Source) (place : FieldAt) (w : Nat) :
    fieldRead (s.withErrors st c) src place w = fieldRead s src place w := by
  cases src <;> rfl

theorem nopRule_ignoresErrors : IgnoresErrors nopRule := fun _ st _ h => ⟨st, h, rfl⟩

theorem fbwRule_ignoresErrors (addr : Nat) (bytes : List Byte) : IgnoresErrors (fbwRule addr bytes) := by
  intro s st c h
  unfold fbwRule
  split <;> exact ⟨st, h, rfl⟩

theorem setlenRule_ignoresErrors (len : Nat) : IgnoresErrors (setlenRule len) := by
  intro s st c h
  unfold setlenRule
  split <;> exact ⟨st, h, rfl⟩

theorem clrstatRule_ignoresErrors : IgnoresErrors clrstatRule :=
  fun _ _ _ h => ⟨_, h.clearSticky, rfl⟩

theorem extRule_ignoresErrors (sg : Signedness) (src : Source) (place : FieldAt) (w : Nat) :
    IgnoresErrors (extRule sg src place w) := by
  intro s st c h
  rw [extRule, extRule, fieldRead_withErrors]
  split
  · exact ⟨st, h, rfl⟩
  · exact ⟨_, h.setResult _, rfl⟩

theorem crcInitRule_ignoresErrors : IgnoresErrors crcInitRule :=
  fun _ _ _ h => ⟨_, h.setCrcCheck none, rfl⟩

theorem crcFeedRule_ignoresErrors (k data : Nat) : IgnoresErrors (crcFeedRule k data) :=
  fun _ _ _ h => ⟨_, h.setCrcCheck none, rfl⟩

theorem crcRunRule_ignoresErrors (pad off count : Nat) : IgnoresErrors (crcRunRule pad off count) := by
  intro s st c h
  rw [crcRunRule_eq, crcRunRule_eq, State.setErrCmd_flen, State.setStatus_flen]
  split
  · exact ⟨_, h.setCrcCheck none, rfl⟩
  · exact ⟨st, h, rfl⟩

theorem crcCheckRule_ignoresErrors (off : Nat) : IgnoresErrors (crcCheckRule off) := by
  intro s st c h
  rw [crcCheckRule_eq, crcCheckRule_eq, State.setErrCmd_gen, State.setStatus_gen, State.setErrCmd_flen,
    State.setStatus_flen]
  split
  · exact ⟨st, h, rfl⟩
  split
  · exact ⟨_, (h.setCrcCheck _).noteMismatch _, rfl⟩
  · exact ⟨st, h, rfl⟩

theorem crcSbasRule_ignoresErrors : IgnoresErrors crcSbasRule := fun s st c h =>
  ((crcInitRule_ignoresErrors s st c h).andThen (crcRunRule_ignoresErrors 6 0 226)).andThen
    (crcCheckRule_ignoresErrors 226)

theorem flInitRule_ignoresErrors : IgnoresErrors flInitRule :=
  fun _ _ _ h => ⟨_, h.setFlCheck none, rfl⟩

theorem flByteRule_ignoresErrors (b : Byte) : IgnoresErrors (flByteRule b) :=
  fun _ _ _ h => ⟨_, h.setFlCheck none, rfl⟩

theorem flRunRule_ignoresErrors (off count : Nat) : IgnoresErrors (flRunRule off count) := by
  intro s st c h
  rw [flRunRule_eq, flRunRule_eq, State.setErrCmd_flen, State.setStatus_flen]
  split
  · exact ⟨_, h.setFlCheck none, rfl⟩
  · exact ⟨st, h, rfl⟩

theorem flCheckRule_ignoresErrors (off : Nat) : IgnoresErrors (flCheckRule off) := by
  intro s st c h
  rw [flCheckRule_eq, flCheckRule_eq, State.setErrCmd_flen, State.setStatus_flen]
  split
  · exact ⟨_, (h.setFlCheck _).noteMismatch _, rfl⟩
  · exact ⟨st, h, rfl⟩

/-- The length field is no part of the record; then step by step (43_fletcher8 R186, R187). -/
theorem flUbxRule_ignoresErrors : IgnoresErrors flUbxRule := by
  intro s st c h
  have hhas : (s.withErrors st c).frameHas 0 6 = s.frameHas 0 6 := rfl
  have hubx : ubxLength (s.withErrors st c) = ubxLength s := rfl
  rw [flUbxRule, flUbxRule, hhas, hubx]
  split
  · exact ⟨st, h, rfl⟩
  · exact ((flInitRule_ignoresErrors s st c h).andThen (flRunRule_ignoresErrors _ _)).andThen
      (flCheckRule_ignoresErrors _)

theorem raClrRule_ignoresErrors : IgnoresErrors raClrRule := fun _ st _ h => ⟨st, h, rfl⟩

theorem raAppRule_ignoresErrors (src : Source) (place : FieldAt) (w : Nat) :
    IgnoresErrors (raAppRule src place w) := by
  intro s st c h
  rw [raAppRule, raAppRule, fieldRead_withErrors, State.setErrCmd_asm, State.setStatus_asm]
  split
  · exact ⟨st, h, rfl⟩
  split <;> exact ⟨st, h, rfl⟩

/-- RA_APPR is the one rule that tests STATUS, and it tests RES_VALID (44_reassembly R204). -/
theorem raApprRule_ignoresErrors (w : Nat) : IgnoresErrors (raApprRule w) := by
  intro s st c h
  rw [raApprRule, raApprRule, State.setErrCmd_asm, State.setStatus_asm, State.setErrCmd_status,
    State.setStatus_status, h.flag_resValid]
  split
  · exact ⟨st, h, rfl⟩
  split <;> exact ⟨st, h, rfl⟩

theorem raGetRule_ignoresErrors (sg : Signedness) : IgnoresErrors (raGetRule sg) := by
  intro s st c h
  rw [raGetRule, raGetRule, State.setErrCmd_asm, State.setStatus_asm]
  split
  · exact ⟨st, h, rfl⟩
  · exact ⟨_, h.setResult _, rfl⟩

/-- No command's own rule looks at ERR, at the sticky bits of the errors or at ERRCMD (60_exceptions R232). -/
theorem rule_ignoresErrors (i : Instr) : IgnoresErrors (ruleOf i) := by
  cases i with
  | nop => exact nopRule_ignoresErrors
  | fbw1 => exact fbwRule_ignoresErrors _ _
  | fbw2 => exact fbwRule_ignoresErrors _ _
  | fbw3 => exact fbwRule_ignoresErrors _ _
  | setlen => exact setlenRule_ignoresErrors _
  | clrstat => exact clrstatRule_ignoresErrors
  | extBe => exact extRule_ignoresErrors _ _ _ _
  | extLe => exact extRule_ignoresErrors _ _ _ _
  | crcInit => exact crcInitRule_ignoresErrors
  | crcFeed1 => exact crcFeedRule_ignoresErrors _ _
  | crcFeed2 => exact crcFeedRule_ignoresErrors _ _
  | crcFeed3 => exact crcFeedRule_ignoresErrors _ _
  | crcFeed4 => exact crcFeedRule_ignoresErrors _ _
  | crcFeed5 => exact crcFeedRule_ignoresErrors _ _
  | crcFeed6 => exact crcFeedRule_ignoresErrors _ _
  | crcFeed7 => exact crcFeedRule_ignoresErrors _ _
  | crcFeed8 => exact crcFeedRule_ignoresErrors _ _
  | crcRun => exact crcRunRule_ignoresErrors _ _ _
  | crcCheck => exact crcCheckRule_ignoresErrors _
  | crcSbas => exact crcSbasRule_ignoresErrors
  | flInit => exact flInitRule_ignoresErrors
  | flByte => exact flByteRule_ignoresErrors _
  | flRun => exact flRunRule_ignoresErrors _ _
  | flCheck => exact flCheckRule_ignoresErrors _
  | flUbx => exact flUbxRule_ignoresErrors
  | raClr => exact raClrRule_ignoresErrors
  | raAppBe => exact raAppRule_ignoresErrors _ _ _
  | raAppLe => exact raAppRule_ignoresErrors _ _ _
  | raAppr => exact raApprRule_ignoresErrors _
  | raGet => exact raGetRule_ignoresErrors _

/-! ### The protocol on ends that differ in earlier errors -/

/-- The record of earlier errors is no part. -/
theorem changesOnly_withErrors (s : State) (st : Status) (c : Word) : changesOnly [] s (s.withErrors st c) :=
  changesOnly_setStatus s st

section Conclude

variable {c : Word} {r r' : RuleEnd} (w : Word) (h : SameButErrors c r r')
include h

theorem SameButErrors.changesOnly_conclude : changesOnly [] (conclude w r) (conclude w r') := by
  obtain ⟨st, -, rfl⟩ := h
  cases r with
  | done t => exact changesOnly_withErrors (conclude w (.done t)) (st.setErr 0) c
  | raise e t => exact changesOnly_withErrors (conclude w (.raise e t)) (st.noteError e w) w

theorem SameButErrors.err_conclude : (conclude w r').status.err = (conclude w r).status.err := by
  obtain ⟨st, -, rfl⟩ := h
  cases r with
  | done t => exact (st.err_setErr 0).trans (t.status.err_setErr 0).symm
  | raise e t => exact (st.err_noteError e w).trans (t.status.err_noteError e w).symm

theorem SameButErrors.status_conclude : SameAboveErrors (conclude w r).status (conclude w r').status := by
  obtain ⟨st, hst, rfl⟩ := h
  cases r with
  | done t => exact hst.setErr 0
  | raise e t => exact hst.noteError e w

/-- A new error is recorded over the earlier one. -/
theorem SameButErrors.errCmd_conclude (herr : (conclude w r).status.err ≠ 0) :
    (conclude w r').errCmd = (conclude w r).errCmd := by
  obtain ⟨st, -, rfl⟩ := h
  obtain ⟨e, t, rfl⟩ := raises_of_err_ne_zero herr
  rfl

end Conclude

end Sys2Proof.Machine

open Sys2Proof Sys2Proof.Machine

/-- Settles O6: the word's rule is refused in the state it was given, and the protocol knows the word by its OP. -/
theorem illegalWordIsRecorded : Obligations.IllegalWordIsRecorded := by
  intro s w rest e hport hdecode
  have hstep := step_writeCmd hport
  rw [wordRule_of_error hdecode] at hstep
  obtain ⟨hfails, hparts⟩ := refused_conclude w .illegalCommand (s.setPort rest)
  have ⟨_, _, _, _, hvalid, _⟩ := hfails
  exact ⟨_, hstep, hfails, hparts, fun hop => hvalid ((producesRes_iff w).2 hop)⟩

/-- Settles O14: a command word ends its rule inside the protocol, and a read and a reset always answer. -/
theorem stepNeverStops : Obligations.StepNeverStops := step_answers

/-- Settles O17: ERR is set only when the rule raises an error, and then it has written nothing yet. -/
theorem failedPrimitiveCommandWritesNothing : Obligations.FailedPrimitiveCommandWritesNothing := by
  intro i s t hs hu hexec herr
  rw [exec_eq] at hexec
  cases hexec
  obtain ⟨e, u, hrule⟩ := raises_of_err_ne_zero herr
  obtain rfl := rule_keepsOnError i hs hu _ _ _ hrule
  obtain ⟨hfails, hparts⟩ := refused_conclude (encode i) e s
  rw [hrule]
  exact ⟨hparts, e, hfails⟩

/-- Settles O18: the rules end alike but for the record, and the protocol then writes the same over both. -/
theorem earlierErrorsDoNotMatter : Obligations.EarlierErrorsDoNotMatter := by
  intro i s st c h
  have hend := rule_ignoresErrors i s.count st c h
  have hexec := exec_eq i (s.withErrors st c)
  exact ⟨_, _, exec_eq i s, hexec, hend.err_conclude _, hend.status_conclude _, hend.changesOnly_conclude _,
    hend.errCmd_conclude _⟩

end

section
/-!
Reset and the end of a run (70_reset_and_hazards R250, R256, R257): what the host's Reset leaves of the block and of the
host's own bookkeeping, and a run as its first step and the rest.
-/

namespace Sys2Proof.Machine

/-! ### Reset -/

/-- No byte written before a reset is left (70_reset_and_hazards R250). -/
@[simp] theorem resetBlock_fb_read (s : State) (a : Nat) : (resetBlock s).fb.read a = none := rfl

@[simp] theorem resetBlock_port (s : State) : (resetBlock s).port = s.port := rfl

@[simp] theorem resetBlock_replies (s : State) : (resetBlock s).replies = s.replies := rfl

/-! ### Runs -/

/-- A run that begins with a step that goes on is the rest of the run from there (70_reset_and_hazards R256). -/
theorem run_core_succ {s t : State} (h : step s = .next t) (k : Nat) :
    Host.Core.run core (k + 1) s = Host.Core.run core k t := by
  have hcore : core.step s = .next t := h
  simp only [Host.Core.run, hcore]

end Sys2Proof.Machine

open Sys2Proof Sys2Proof.Machine

/-- Settles O13, by induction on the words: the first is executed and counted in one step, which leaves the rest
pending. -/
theorem runOfWordsCompletes : Obligations.RunOfWordsCompletes := by
  intro ws
  induction ws with
  | nil => exact fun s hport => ⟨s, rfl, hport, (Nat.mod_eq_of_lt s.cSeq.isLt).symm⟩
  | cons w ws ih =>
    intro s hport
    obtain ⟨t, hstep, hrest, hcount⟩ := everyCommandWordIsCounted s w (ws.map .writeCmd) hport
    obtain ⟨u, hrun, hdone, htotal⟩ := ih t hrest
    refine ⟨u, (run_core_succ hstep ws.length).trans hrun, hdone, ?_⟩
    calc u.cSeq.toNat = ((s.cSeq.toNat + 1) % 2 ^ 32 + ws.length) % 2 ^ 32 := by rw [htotal, hcount]
      _ = (s.cSeq.toNat + (w :: ws).length) % 2 ^ 32 := by
        rw [Nat.mod_add_mod, List.length_cons, Nat.add_assoc, Nat.add_comm 1]

/-- Settles O9: whatever the state, a reset keeps the host's two lists only, and every register takes the value it has in
`State.reset`. -/
theorem resetSetsEveryRegister : Obligations.ResetSetsEveryRegister := by
  intro s rest hport
  exact ⟨_, step_reset hport, resetBlock_fb_read _, rfl, rfl, rfl, rfl, rfl, rfl, rfl, rfl, rfl, rfl, rfl, rfl, rfl, rfl,
    resetBlock_port _, resetBlock_replies _⟩

end
